-- ==== Sys2Proof/Word.lean ====
section
/-!
DEFINITION. The word types of the block and the payloads of its two interfaces (00_scope.md R7, 10_state.md R11 to
R14): bytes, opaque identifiers, exact rationals, and the command word presented on the command side.
-/
namespace Sys2Proof

/-- A character word (format `C`, R45) or a symbol byte (format `M`, R48): 8 bits, unsigned. -/
abbrev Byte := BitVec 8

/-- The identity of the output pin (R11). The core never computes with it (D13). DESIGN CHOICE, log 13. -/
abbrev PinId := Nat

/-- The identity of a tone channel (R14). The core never computes with it (D13). DESIGN CHOICE, log 13. -/
abbrev ToneId := Nat

/-- A tone frequency in Hz (R14), passed through unchanged; not assumed to be an integer (N9). DESIGN CHOICE, log 13. -/
abbrev Hz := Rat

/-- A speed in words per minute: "a real number" (R13), exact (D12). DESIGN CHOICE, log 14. -/
abbrev Wpm := Rat

/-- A duration in milliseconds, exact (R87, D12). DESIGN CHOICE, log 14. -/
abbrev Millis := Rat

/-- What the host presents on the command side (R7): the selector `cmd_op` (format `K`, R49) and the operand lines.
An operation reads only the operands R7 gives it; the other lines are ignored. -/
structure CommandWord where
  /-- `cmd_op`, 2 bits (R49). -/
  op : BitVec 2
  /-- `pin`, read by both constructions. -/
  pin : PinId
  /-- `speed`, read by both constructions. -/
  speed : Wpm
  /-- `tone_ch`, read by `CONSTRUCT5`. -/
  toneCh : ToneId
  /-- `freq`, read by `CONSTRUCT5`. -/
  freq : Hz
  /-- `invert`, read by both constructions. -/
  invert : Bool
  /-- `char[7:0]`, read by `SEND_CHAR`. -/
  char : Byte
  /-- The byte stream ending in `SEQ_END`, read by `SEND_SEQ`. -/
  stream : List Byte
  deriving DecidableEq, Repr

/-- A command word with the selector `op` and every operand zero or empty. -/
def CommandWord.blank (op : BitVec 2) : CommandWord :=
  { op := op, pin := 0, speed := 0, toneCh := 0, freq := 0, invert := false, char := 0, stream := [] }

end Sys2Proof
end

