-- ==== Sys2Proof/Syntax.lean ====
section
/-!
DEFINITION. The instructions of the block: one constructor per mnemonic of spec/opcode_table.json. The table splits a
character class into several match/mask rows; a class is one instruction (30_encoding.md R47) and carries its code.
-/
namespace Sys2Proof

/-- Every instruction of the block. Format `C` (R47, R54), format `K` (R49), format `M` (R48). -/
inductive Instr where
  /-- `CTRL` (R114): a control code 0x00..0x1F given to `SEND_CHAR`, or 0x01..0x1F in a stream. -/
  | ctrl (c : Byte)
  /-- `SP` (R111): the space, 0x20. -/
  | sp
  /-- `SYM` (R115): 0x21..0x60 but for the two delimiters. -/
  | sym (c : Byte)
  /-- `PRO_OPEN` (R112): `<`, 0x3C. -/
  | proOpen
  /-- `PRO_CLOSE` (R113): `>`, 0x3E. -/
  | proClose
  /-- `LOW` (R116): `a`..`z`, 0x61..0x7A. -/
  | low (c : Byte)
  /-- `OOR` (R119): 0x7B..0xDF but for the seven accented codes. -/
  | oor (c : Byte)
  /-- `ACC` (R117): the seven accented codes. -/
  | acc (c : Byte)
  /-- `OORF` (R120): 0xE0..0xFF but for the seven accented lowercase codes. -/
  | oorf (c : Byte)
  /-- `ACCL` (R118): the seven accented lowercase codes. -/
  | accl (c : Byte)
  /-- `CONSTRUCT3` (R80), `cmd_op = 00`. -/
  | construct3 (pin : PinId) (speed : Wpm) (invert : Bool)
  /-- `CONSTRUCT5` (R81), `cmd_op = 01`. -/
  | construct5 (pin : PinId) (speed : Wpm) (toneCh : ToneId) (freq : Hz) (invert : Bool)
  /-- `SEND_CHAR` (R110), `cmd_op = 10`. -/
  | sendChar (c : Byte)
  /-- `SEND_SEQ` (R125), `cmd_op = 11`. -/
  | sendSeq (stream : List Byte)
  /-- `DOT` (R93): element bit 0. -/
  | dot
  /-- `DASH` (R94): element bit 1. -/
  | dash
  /-- `END` (R126): the byte 0x00 fetched by `SEND_SEQ`. -/
  | endSeq
  deriving DecidableEq, Repr

end Sys2Proof
end

