-- ==== Sys2Proof/WellFormed.lean ====
section
/-!
DEFINITION. Which instruction terms stand for an encoding: the code of a character class lies in that class
(30_encoding.md R47), and the operand of `SEND_SEQ` holds the terminator (44_timing_fsm.md R125). Constructions take
any operand (41_construct.md R86).
-/
namespace Sys2Proof

/-- The seven codes of class `ACC` as R47 lists them. -/
def accentedUpper : List Byte := [0xC1, 0xC9, 0xCD, 0xD1, 0xD3, 0xDA, 0xDC]

/-- The seven codes of class `ACCL` as R47 lists them. -/
def accentedLower : List Byte := [0xE1, 0xE9, 0xED, 0xF1, 0xF3, 0xFA, 0xFC]

/-- The term is an instruction of the block. -/
def wellFormed : Instr → Bool
  | .ctrl c => decide (c ≤ 0x1F)
  | .sp => true
  | .sym c => decide (0x21 ≤ c) && decide (c ≤ 0x60) && decide (c ≠ 0x3C) && decide (c ≠ 0x3E)
  | .proOpen => true
  | .proClose => true
  | .low c => decide (0x61 ≤ c) && decide (c ≤ 0x7A)
  | .oor c => decide (0x7B ≤ c) && decide (c ≤ 0xDF) && !accentedUpper.contains c
  | .acc c => accentedUpper.contains c
  | .oorf c => decide (0xE0 ≤ c) && !accentedLower.contains c
  | .accl c => accentedLower.contains c
  | .construct3 _ _ _ => true
  | .construct5 _ _ _ _ _ => true
  | .sendChar _ => true
  | .sendSeq stream => stream.contains 0
  | .dot => true
  | .dash => true
  | .endSeq => true

end Sys2Proof
end

