-- ==== Sys2Proof/Decode.lean ====
section
/-!
DEFINITION. The three encodings of 30_encoding.md, read and written: the character word (format `C`), the element bits of
a symbol byte (format `M`) and the command word (format `K`). Every encoding is legal (R52), so the decoders are total; a
stream that is out of bytes and the byte 0 as a symbol byte are rejected by name.
-/
namespace Sys2Proof

/-- Why a decoder reads nothing. -/
inductive DecodeError where
  /-- The byte list is empty: the stream has presented no further byte (R170). -/
  | outOfBytes
  /-- The byte 0 is no symbol byte (R48, R105). -/
  | zeroSymbol
  deriving DecidableEq, Repr

/-! ## Format C: the character word -/

/-- The seven accented codes `ACC` of R51. -/
def accentCodes : List Byte := [0xC1, 0xC9, 0xCD, 0xD1, 0xD3, 0xDA, 0xDC]

/-- Reading a character word, in the order of R51. -/
def decodeChar (c : Byte) : Instr :=
  if c = 0x20 then .sp
  else if c = 0x3C then .proOpen
  else if c = 0x3E then .proClose
  else if c ≤ 0x1F then .ctrl c
  else if c ≤ 0x60 then .sym c
  else if c ≤ 0x7A then .low c
  else if c ≤ 0xDF then
    if accentCodes.contains c then .acc c else .oor c
  else
    if accentCodes.contains (c - 0x20) then .accl c else .oorf c

/-- Reading a byte that `SEND_SEQ` fetched: 0x00 is `END` there and not a `CTRL` (R54, R126). -/
def decodeStreamByte (b : Byte) : Instr :=
  if b = 0 then .endSeq else decodeChar b

/-- Reading the next instruction of a byte stream: the instruction and the rest, one byte each (R45). -/
def decodeStream : List Byte → Except DecodeError (Instr × List Byte)
  | [] => .error .outOfBytes
  | b :: rest => .ok (decodeStreamByte b, rest)

/-! ## Format M: the symbol byte -/

/-- The element bit of R48: 0 is a dot, 1 is a dash. -/
def decodeElement (bit : Bool) : Instr :=
  if bit then .dash else .dot

/-- The elements keyed by at most `fuel` rounds of the loop of R101 from the value `v`, `true` for a dash. -/
def unpackFrom : Nat → Byte → List Bool
  | 0, _ => []
  | fuel + 1, v => if v = 1 then [] else v.getLsbD 0 :: unpackFrom fuel (v >>> 1)

/-- The elements of a symbol byte, first keyed first (R100, R101). A symbol byte has at most 7 (R104). -/
def unpack (b : Byte) : List Bool :=
  unpackFrom 7 b

/-- Packing elements into a symbol byte (R102): the terminator 1 on top, the first element at bit 0. -/
def pack : List Bool → Byte
  | [] => 1
  | e :: es => (pack es <<< 1) ||| (if e then 1 else 0)

/-- Reading a symbol byte; 0 is none (R48, R105). -/
def decodeSymbol (b : Byte) : Except DecodeError (List Instr) :=
  if b = 0 then .error .zeroSymbol else .ok ((unpack b).map decodeElement)

/-! ## Format K: the command word -/

/-- Reading the command word (R49): all four selectors are operations. -/
def decodeCommand (k : CommandWord) : Instr :=
  if k.op = 0 then .construct3 k.pin k.speed k.invert
  else if k.op = 1 then .construct5 k.pin k.speed k.toneCh k.freq k.invert
  else if k.op = 2 then .sendChar k.char
  else .sendSeq k.stream

/-! ## One decoder and one encoder for all instructions -/

/-- An encoded instruction, with the place it is read from, which is what tells the formats apart (R54: the byte 0x00
means `END` in a stream and `CTRL` as the operand of `SEND_CHAR`). -/
inductive Encoded where
  /-- A character word given to `SEND_CHAR` (format `C`). -/
  | charWord (c : Byte)
  /-- A byte fetched by `SEND_SEQ` (format `C`). -/
  | streamByte (b : Byte)
  /-- One element bit of a symbol byte (format `M`). -/
  | elementBit (bit : Bool)
  /-- A word on the command side (format `K`). -/
  | command (k : CommandWord)
  deriving DecidableEq, Repr

/-- Reading any encoded instruction. No encoding is illegal (R52). -/
def decode : Encoded → Instr
  | .charWord c => decodeChar c
  | .streamByte b => decodeStreamByte b
  | .elementBit bit => decodeElement bit
  | .command k => decodeCommand k

/-- Writing an instruction, from the encoding tables of R47, R48, R49 and R54. -/
def encode : Instr → Encoded
  | .ctrl c => .charWord c
  | .sp => .charWord 0x20
  | .sym c => .charWord c
  | .proOpen => .charWord 0x3C
  | .proClose => .charWord 0x3E
  | .low c => .charWord c
  | .oor c => .charWord c
  | .acc c => .charWord c
  | .oorf c => .charWord c
  | .accl c => .charWord c
  | .construct3 pin speed invert => .command { CommandWord.blank 0 with pin := pin, speed := speed, invert := invert }
  | .construct5 pin speed toneCh freq invert =>
    .command { CommandWord.blank 1 with pin := pin, speed := speed, toneCh := toneCh, freq := freq, invert := invert }
  | .sendChar c => .command { CommandWord.blank 2 with char := c }
  | .sendSeq stream => .command { CommandWord.blank 3 with stream := stream }
  | .dot => .elementBit false
  | .dash => .elementBit true
  | .endSeq => .streamByte 0

/-- The instruction read from `nbits` table bits `w`, where the words of one instruction are all that is given. Eight
bits are a byte of the stream, the one place the machine fetches character words from by itself (R21, R125), so 0 is
`END` there. One bit is an element, two bits are a command selector with operands of zeros. Log 26. -/
def decodeTableWord (nbits w : Nat) : Option Instr :=
  if nbits = 1 then
    if w < 2 then some (decode (.elementBit (decide (w = 1)))) else none
  else if nbits = 2 then
    if w < 4 then some (decode (.command (CommandWord.blank (BitVec.ofNat 2 w)))) else none
  else if nbits = 8 then
    if w < 256 then some (decode (.streamByte (BitVec.ofNat 8 w))) else none
  else none

/-! ## The table's match and mask rows (R51) -/

/-- One character row of spec/opcode_table.json: a word `w` matches iff `w &&& mask = pattern`. -/
structure CharRow where
  mnemonic : String
  pattern : Byte
  mask : Byte
  deriving DecidableEq, Repr

/-- A row applies to a word (R51). -/
def CharRow.applies (r : CharRow) (w : Byte) : Bool :=
  decide (w &&& r.mask = r.pattern)

/-- Rows 1 to 11 of the 66 character rows. -/
def charRows1 : List CharRow :=
  [⟨"CTRL", 0x00, 0xE0⟩, ⟨"SP", 0x20, 0xFF⟩, ⟨"SYM", 0x21, 0xFF⟩, ⟨"SYM", 0x22, 0xFE⟩,
   ⟨"SYM", 0x24, 0xFC⟩, ⟨"SYM", 0x28, 0xF8⟩, ⟨"SYM", 0x30, 0xF8⟩, ⟨"SYM", 0x38, 0xFC⟩,
   ⟨"PRO_OPEN", 0x3C, 0xFF⟩, ⟨"SYM", 0x3D, 0xFF⟩, ⟨"PRO_CLOSE", 0x3E, 0xFF⟩]

/-- Rows 12 to 22 of the 66 character rows. -/
def charRows2 : List CharRow :=
  [⟨"SYM", 0x3F, 0xFF⟩, ⟨"SYM", 0x40, 0xE0⟩, ⟨"SYM", 0x60, 0xFF⟩, ⟨"LOW", 0x61, 0xFF⟩,
   ⟨"LOW", 0x62, 0xFE⟩, ⟨"LOW", 0x64, 0xFC⟩, ⟨"LOW", 0x68, 0xF8⟩, ⟨"LOW", 0x70, 0xF8⟩,
   ⟨"LOW", 0x78, 0xFE⟩, ⟨"LOW", 0x7A, 0xFF⟩, ⟨"OOR", 0x7B, 0xFF⟩]

/-- Rows 23 to 33 of the 66 character rows. -/
def charRows3 : List CharRow :=
  [⟨"OOR", 0x7C, 0xFC⟩, ⟨"OOR", 0x80, 0xC0⟩, ⟨"OOR", 0xC0, 0xFF⟩, ⟨"ACC", 0xC1, 0xFF⟩,
   ⟨"OOR", 0xC2, 0xFE⟩, ⟨"OOR", 0xC4, 0xFC⟩, ⟨"OOR", 0xC8, 0xFF⟩, ⟨"ACC", 0xC9, 0xFF⟩,
   ⟨"OOR", 0xCA, 0xFE⟩, ⟨"OOR", 0xCC, 0xFF⟩, ⟨"ACC", 0xCD, 0xFF⟩]

/-- Rows 34 to 44 of the 66 character rows. -/
def charRows4 : List CharRow :=
  [⟨"OOR", 0xCE, 0xFE⟩, ⟨"OOR", 0xD0, 0xFF⟩, ⟨"ACC", 0xD1, 0xFF⟩, ⟨"OOR", 0xD2, 0xFF⟩,
   ⟨"ACC", 0xD3, 0xFF⟩, ⟨"OOR", 0xD4, 0xFC⟩, ⟨"OOR", 0xD8, 0xFE⟩, ⟨"ACC", 0xDA, 0xFF⟩,
   ⟨"OOR", 0xDB, 0xFF⟩, ⟨"ACC", 0xDC, 0xFF⟩, ⟨"OOR", 0xDD, 0xFF⟩]

/-- Rows 45 to 55 of the 66 character rows. -/
def charRows5 : List CharRow :=
  [⟨"OOR", 0xDE, 0xFE⟩, ⟨"OORF", 0xE0, 0xFF⟩, ⟨"ACCL", 0xE1, 0xFF⟩, ⟨"OORF", 0xE2, 0xFE⟩,
   ⟨"OORF", 0xE4, 0xFC⟩, ⟨"OORF", 0xE8, 0xFF⟩, ⟨"ACCL", 0xE9, 0xFF⟩, ⟨"OORF", 0xEA, 0xFE⟩,
   ⟨"OORF", 0xEC, 0xFF⟩, ⟨"ACCL", 0xED, 0xFF⟩, ⟨"OORF", 0xEE, 0xFE⟩]

/-- Rows 56 to 66 of the 66 character rows. -/
def charRows6 : List CharRow :=
  [⟨"OORF", 0xF0, 0xFF⟩, ⟨"ACCL", 0xF1, 0xFF⟩, ⟨"OORF", 0xF2, 0xFF⟩, ⟨"ACCL", 0xF3, 0xFF⟩,
   ⟨"OORF", 0xF4, 0xFC⟩, ⟨"OORF", 0xF8, 0xFE⟩, ⟨"ACCL", 0xFA, 0xFF⟩, ⟨"OORF", 0xFB, 0xFF⟩,
   ⟨"ACCL", 0xFC, 0xFF⟩, ⟨"OORF", 0xFD, 0xFF⟩, ⟨"OORF", 0xFE, 0xFE⟩]

/-- The 66 character rows of spec/opcode_table.json, in its order. -/
def charRows : List CharRow :=
  charRows1 ++ charRows2 ++ charRows3 ++ charRows4 ++ charRows5 ++ charRows6

/-- The mnemonic of an instruction, as spec/opcode_table.json spells it. -/
def mnemonic : Instr → String
  | .ctrl _ => "CTRL"
  | .sp => "SP"
  | .sym _ => "SYM"
  | .proOpen => "PRO_OPEN"
  | .proClose => "PRO_CLOSE"
  | .low _ => "LOW"
  | .oor _ => "OOR"
  | .acc _ => "ACC"
  | .oorf _ => "OORF"
  | .accl _ => "ACCL"
  | .construct3 _ _ _ => "CONSTRUCT3"
  | .construct5 _ _ _ _ _ => "CONSTRUCT5"
  | .sendChar _ => "SEND_CHAR"
  | .sendSeq _ => "SEND_SEQ"
  | .dot => "DOT"
  | .dash => "DASH"
  | .endSeq => "END"

end Sys2Proof
end

