-- ==== Sys2Proof/Machine/State.lean ====
section
/-!
DEFINITION. The state of one core as plain data: every register of 10_state.md, the read-only table, the inputs (presented
commands, stream, reset line), the observation (trace and returned bytes), the ways a step can stop, and the reset state.
-/
namespace Sys2Proof.Machine

/-- The boundary events (00_scope.md R7, 42_output_driver.md R90). -/
inductive Event where
  /-- `CFG(p)`: `configure_output(pin)`. -/
  | cfg (pin : PinId)
  /-- `LVL(p, l)`: `set_output_level(pin, level)`, `true` for high (1). -/
  | lvl (pin : PinId) (level : Bool)
  /-- `DLY(d)`: `block_for(milliseconds)`. -/
  | dly (duration : Millis)
  /-- `TON(ch, f)`: `start_tone(channel, frequency_hz)`. -/
  | ton (ch : ToneId) (freq : Hz)
  /-- `TOF(ch)`: `stop_tone(channel)`. -/
  | tof (ch : ToneId)
  deriving DecidableEq, Repr

/-- The values of `PHASE` (10_state.md R22), with the names of 44_timing_fsm.md R127. -/
inductive Phase where
  | idle | fetch | classify | wordGap | load | test
  | pTon | pOn | pMark | pOff | pTof | pGap | letterGap | done
  deriving DecidableEq, Repr

/-- The state of one core. -/
@[ext]
structure State where
  /-- `PIN` (R11). -/
  pin : PinId
  /-- `INVERT` (R12). -/
  invert : Bool
  /-- `SPEED`, the construction argument as given (R13). -/
  speed : Wpm
  /-- `EFF`, the effective speed (R13, R82). -/
  eff : Wpm
  /-- `U`, the unit duration in ms (R13, R83). -/
  unit : Millis
  /-- `DASH`, the dash length in ms (R13, R84). -/
  dash : Millis
  /-- `TONE_EN` (R14). -/
  toneEn : Bool
  /-- `TONE_CH` (R14). -/
  toneCh : ToneId
  /-- `TONE_FREQ` (R14). -/
  toneFreq : Hz
  /-- `CONSTRUCTED` (R15). -/
  constructed : Bool
  /-- `PROSIGN` (R16). -/
  prosign : Bool
  /-- `C`, the character being processed (R17). -/
  c : Byte
  /-- `OFFR`, the accent offset (R18). -/
  offr : BitVec 7
  /-- `IDX`, the table index (R18). -/
  idx : Byte
  /-- `V`, the decoder's shift register (R19). -/
  v : Byte
  /-- `RET`, the returned code (R20). -/
  ret : Byte
  /-- `SP`, the sequence pointer (R21). -/
  sp : Nat
  /-- `INSEQ`, a `SEND_SEQ` is running (R21). -/
  inseq : Bool
  /-- `PHASE` (R22). -/
  phase : Phase
  /-- `KEY`, the level last written to `PIN` (R23). -/
  key : Bool
  /-- `TONE_ON`, between a `TON` and the next `TOF` (R23). -/
  toneOn : Bool
  /-- `TABLE` (R24, R30): the entries that differ from `Memory.unlisted`, by rising index. A parameter: no step writes
  it. PRESUMED (unsafe), log 3. -/
  table : List Host.Cell
  /-- The operand of the running `SEND_SEQ` (R31), an input. -/
  stream : List Byte
  /-- The command words the host presents, in order; the head is the one presented now (R7), an input. Log 12. -/
  host : List CommandWord
  /-- The hardware reset input (R161). Log 8. -/
  rst : Bool
  /-- The trace, oldest event first (R5). -/
  trace : List Event
  /-- The bytes delivered on `rsp`, oldest first (R5, R123). Log 31. -/
  rsp : List Byte
  /-- The model's own counter of free values (R160). Log 7. -/
  free : Nat
  deriving DecidableEq, Repr

/-- Why a step stops with a fault. The block itself raises nothing (60_exceptions.md R140). -/
inductive Fault where
  /-- Raised by phase `LOAD` when `IDX` is above 69: no byte is there (20_memory.md R39, U3). Safe: it gives no value. No
  instruction raises it (40_morse_encoder.md R75). -/
  | tableIndex
  deriving DecidableEq, Repr

/-- Why a step has no meaning. -/
inductive Refusal where
  /-- The interface's name for an instruction without a meaning. Every instruction has one, so no arm raises it. Safe. -/
  | notModelled (mnemonic : String)
  /-- Raised by a step of several cores (`stepInstance`, `phaseInstance`) when the host overlaps commands of two of them on
  one tone channel: "the rule for that case is to refuse it" (60_exceptions.md R150, U5). Safe: such a run has no
  behaviour. No instruction and no step of one core raises it. Log 28. -/
  | toneShared
  deriving DecidableEq, Repr

/-- The outcomes of a step of this machine. -/
abbrev Outcome := Host.Outcome State Fault Refusal

/-- The state right after a hardware reset at power-on (70_reset_and_hazards.md R160). R160 gives `CONSTRUCTED`, `PHASE`,
`INSEQ`, `PROSIGN` and the trace; it leaves the other registers unspecified, and their values here are DESIGN CHOICE
(unsafe), logs 4 to 6: zeros, and for `EFF`, `U` and `DASH` what R82 to R84 derive from `SPEED = 0`. -/
def State.reset : State where
  pin := 0
  invert := false
  speed := 0
  eff := 1
  unit := 1200
  dash := 3600
  toneEn := false
  toneCh := 0
  toneFreq := 0
  constructed := false
  prosign := false
  c := 0
  offr := 0
  idx := 0
  v := 0
  ret := 0
  sp := 0
  inseq := false
  phase := .idle
  key := false
  toneOn := false
  table := []
  stream := []
  host := []
  rst := false
  trace := []
  rsp := []
  free := 0

end Sys2Proof.Machine
end

