-- ==== Sys2Proof/Machine/Flags.lean ====
section
/-!
DEFINITION. The one flag `PROSIGN` (10_state.md R16) and the admission conditions on `PHASE` and `CONSTRUCTED`
(44_timing_fsm.md R128, 41_construct.md R89, 70_reset_and_hazards.md R162). The block has no condition codes.
-/
namespace Sys2Proof.Machine

/-- `PROSIGN <- 1 - PROSIGN` (R112, R113). -/
def togglePro (s : State) : State := { s with prosign := !s.prosign }

/-- The inter-letter gap is due (R122). -/
def gapDue (s : State) : Bool := !s.prosign

/-- A construction command is accepted (R89). -/
def admitsConstruct (s : State) : Bool := decide (s.phase = .idle)

/-- A send command is accepted (R128, R162). -/
def admitsSend (s : State) : Bool := decide (s.phase = .idle) && s.constructed

end Sys2Proof.Machine
end

