-- ==== Sys2Proof/Machine/Memory.lean ====
section
/-!
DEFINITION. The one memory of the block, the read-only Code Table (20_memory.md R30, R38; 40_morse_encoder.md R68): the
canonical list of cells, what an unlisted index reads as, the single read, and the write by which a model is given another
admissible table before it runs (no instruction writes: R24, R30).
-/
namespace Sys2Proof.Machine.Memory

/-- `TABLE_LEN` (00_scope.md section 4, R68). -/
def tableLen : Nat := 70

/-- `TABLE_REF`, indices 0 to 19 (R70). PRESUMED (unsafe), log 3. -/
def tableRef0 : List Byte := [117, 82, 1, 200, 1, 34, 94, 45, 109, 1, 42, 115, 97, 106, 41, 63, 62, 60, 56, 48]
/-- `TABLE_REF`, indices 20 to 39 (R70). PRESUMED (unsafe), log 3. -/
def tableRef20 : List Byte := [32, 33, 35, 39, 47, 71, 85, 1, 49, 1, 76, 86, 6, 17, 21, 9, 2, 20, 11, 16]
/-- `TABLE_REF`, indices 40 to 59 (R70). PRESUMED (unsafe), log 3. -/
def tableRef40 : List Byte := [4, 30, 13, 18, 7, 5, 15, 22, 27, 10, 8, 3, 12, 24, 14, 25, 29, 19, 1, 1]
/-- `TABLE_REF`, indices 60 to 69 (R70). PRESUMED (unsafe), log 3. -/
def tableRef60 : List Byte := [1, 1, 108, 1, 59, 54, 36, 4, 23, 28]

/-- `TABLE_REF` (R70). -/
def tableRef : List Byte := tableRef0 ++ tableRef20 ++ tableRef40 ++ tableRef60

/-- What an index that the list does not name reads as: the entry of `TABLE_REF` (R70). PRESUMED (unsafe), log 3. -/
def unlisted (i : Nat) : Byte := tableRef.getD i 1

/-- The byte at an index, listed or not. -/
def byteAt : List Host.Cell → Nat → Byte
  | [], i => unlisted i
  | (a, b) :: rest, i => if a = i then b else byteAt rest i

/-- `TABLE[i]`, one byte; nothing outside 0..69 (R30, R39). -/
def read (t : List Host.Cell) (i : Nat) : Option Byte :=
  if i < tableLen then some (byteAt t i) else none

/-- Sets one entry, keeping the canonical form. It supplies the parameter `TABLE` (R68) and is no operation of the
machine. -/
def put : List Host.Cell → Nat → Byte → List Host.Cell
  | [], i, b => if b = unlisted i then [] else [(i, b)]
  | (a, x) :: rest, i, b =>
    if i < a then
      if b = unlisted i then (a, x) :: rest else (i, b) :: (a, x) :: rest
    else if i = a then
      if b = unlisted i then rest else (i, b) :: rest
    else (a, x) :: put rest i b

/-- The canonical form: indices strictly rising, in 0..69, and no entry equal to what its index reads as unlisted. -/
abbrev wf (t : List Host.Cell) : Prop :=
  t.Pairwise (fun x y => x.1 < y.1) ∧ ∀ x ∈ t, x.1 < tableLen ∧ x.2 ≠ unlisted x.1

end Sys2Proof.Machine.Memory
end

