-- ==== Sys2Proof/Machine/Operands.lean ====
section
/-!
DEFINITION. The pure functions of morse_encoder (40_morse_encoder.md R60 to R67, R72) and of the timing derivation
(41_construct.md R82 to R84): each step of normalisation is a function of its own, none touches the state.
-/
namespace Sys2Proof.Machine

/-- Case folding (R60). -/
def fold (c : Byte) : Byte :=
  if (0x61 ≤ c ∧ c ≤ 0x7A) ∨ 0xE0 ≤ c then c - 32 else c

/-- `PLACEHOLDER`, the code of `#` (00_scope.md section 4). -/
def placeholder : Byte := 35

/-- Control-character substitution (R61). -/
def subst (c : Byte) : Byte :=
  if c < 33 then placeholder else c

/-- The accent offsets `OFF` by normalised code (R63, R65). -/
def accentOffset (c : Byte) : BitVec 7 :=
  if c = 209 then 112
  else if c = 193 then 95
  else if c = 201 then 102
  else if c = 205 then 105
  else if c = 211 then 110
  else if c = 218 then 116
  else if c = 220 then 118
  else 0

/-- The index before the clamp (R62, R66). -/
def rawIndex (c : Byte) (off : BitVec 7) : Byte :=
  c - 33 - off.setWidth 8

/-- `CLAMP_MAX` (00_scope.md section 4): the largest index that is not clamped (R67, C3). -/
def clampMax : Byte := 70

/-- The index after the clamp (R67). -/
def clampIndex (idx : Byte) : Byte :=
  if clampMax < idx then 2 else idx

/-- The offset after the clamp (R67). -/
def clampOffset (idx : Byte) (off : BitVec 7) : BitVec 7 :=
  if clampMax < idx then 0 else off

/-- The code reconstructed from index and offset (R72). -/
def reconstruct (idx : Byte) (off : BitVec 7) : Byte :=
  idx + 33 + off.setWidth 8

/-- The code after folding and substitution (R60, R61). -/
def normalise (c : Byte) : Byte := subst (fold c)

/-- `IDX` for the character `c` (R60 to R67). -/
def indexOf (c : Byte) : Byte :=
  clampIndex (rawIndex (normalise c) (accentOffset (normalise c)))

/-- `OFFR` for the character `c` (R60 to R67). -/
def offsetOf (c : Byte) : BitVec 7 :=
  clampOffset (rawIndex (normalise c) (accentOffset (normalise c))) (accentOffset (normalise c))

/-- `RET` for the character `c` (R72, R73). -/
def returnOf (c : Byte) : Byte :=
  reconstruct (indexOf c) (offsetOf c)

/-- The effective speed (R82). -/
def effective (speed : Wpm) : Wpm :=
  if speed ≤ 0 then 1 else speed

/-- `WPM_CONST` (00_scope.md section 4). -/
def wpmConst : Rat := 1200

/-- The unit duration (R83). -/
def unitOf (eff : Wpm) : Millis := wpmConst / eff

/-- The dash duration (R84). -/
def dashOf (unit : Millis) : Millis := 3 * unit

end Sys2Proof.Machine
end

