-- ==== Sys2Proof/Machine/Ops.lean ====
section
/-!
DEFINITION. The named operations on the state: the boundary events (42_output_driver.md R90, R92), the pulse (R93, R94),
the steps of one character (44_timing_fsm.md R127: latch, classify, load, shift, gap, done), and the hardware reset
(70_reset_and_hazards.md R161). The block takes no exception and returns from none (60_exceptions.md R140, R144, R145), so
there is no operation for either.
-/
namespace Sys2Proof.Machine

/-! ## The boundary -/

/-- Issue one boundary event and take its acknowledgement (R90). -/
def emit (e : Event) (s : State) : State := { s with trace := s.trace ++ [e] }

/-- `IDLE_LEVEL` (R91). -/
def idleLevel (s : State) : Bool := s.invert

/-- `ACTIVE_LEVEL` (R91). -/
def activeLevel (s : State) : Bool := !s.invert

/-- `emit LVL(PIN, l)` and `KEY <- l` (R92). -/
def driveLevel (l : Bool) (s : State) : State := { emit (.lvl s.pin l) s with key := l }

/-- `emit DLY(d)` (R90). -/
def delay (d : Millis) (s : State) : State := emit (.dly d) s

/-- `emit TON(TONE_CH, TONE_FREQ)` and `TONE_ON <- 1` (R92). -/
def startTone (s : State) : State := { emit (.ton s.toneCh s.toneFreq) s with toneOn := true }

/-- `emit TOF(TONE_CH)` and `TONE_ON <- 0` (R92). -/
def stopTone (s : State) : State := { emit (.tof s.toneCh) s with toneOn := false }

/-- The pulse primitive with active time `mark` (R93, R94): its six steps in order. -/
def pulse (mark : Millis) (s : State) : State :=
  let s := if s.toneEn then startTone s else s
  let s := driveLevel (activeLevel s) s
  let s := delay mark s
  let s := driveLevel (idleLevel s) s
  let s := if s.toneEn then stopTone s else s
  delay s.unit s

/-- The dot pulse: active for `U` (R93). -/
def dotPulse (s : State) : State := pulse s.unit s

/-- The dash pulse: active for `DASH` (R94). -/
def dashPulse (s : State) : State := pulse s.dash s

/-- The word gap (R111). -/
def wordGap (s : State) : State := delay (7 * s.unit) s

/-- The inter-letter gap, unless prosign mode is active (R122). -/
def letterGap (s : State) : State := if gapDue s then delay (2 * s.unit) s else s

/-! ## One character -/

/-- `C <- c` (R17). -/
def latch (c : Byte) (s : State) : State := { s with c := c }

/-- `RET <- r` (R20). -/
def setRet (r : Byte) (s : State) : State := { s with ret := r }

/-- `PHASE <- p` (R22). -/
def setPhase (p : Phase) (s : State) : State := { s with phase := p }

/-- Steps 3 to 6 of R110 on the latched character, and `RET` (R127, phase `CLASSIFY`; log 29). -/
def resolve (s : State) : State :=
  { s with c := normalise s.c, idx := indexOf s.c, offr := offsetOf s.c, ret := returnOf s.c }

/-- `V <- TABLE[IDX]` (R71); nothing where there is no entry (R39). -/
def load (s : State) : Option State :=
  match Memory.read s.table s.idx.toNat with
  | some b => some { s with v := b }
  | none => none

/-- `V <- V >> 1` (R101). -/
def shiftV (s : State) : State := { s with v := s.v >>> 1 }

/-- Key the element at bit 0 of `V` and shift (the body of the loop of R101). -/
def keyElement (s : State) : State :=
  shiftV (if s.v.getLsbD 0 then dashPulse s else dotPulse s)

/-- At most `fuel` rounds of the loop of R101: the test comes before each element. -/
def keyRounds : Nat → State → State
  | 0, s => s
  | fuel + 1, s => if s.v = 1 then s else keyRounds fuel (keyElement s)

/-- Phase `DONE` (R127): outside a sequence deliver `RET` on `rsp` and return to the host; inside one advance `SP` and
fetch the next byte. -/
def finish (s : State) : State :=
  if s.inseq then { s with sp := s.sp + 1, phase := .fetch }
  else { s with rsp := s.rsp ++ [s.ret], phase := .idle }

/-- The tail of a look-up class once `V` is loaded (R121 to R123). A symbol byte has at most 7 elements (R104), so 7 rounds
end the loop; after them only the value 0 is left undone (R105), and the decoder stays in phase `TEST`, where every
further step keys one more dot, for ever. Log 10. -/
def keyLoaded (s : State) : State :=
  let s := keyRounds 7 s
  if s.v = 1 then finish (letterGap s) else setPhase .test s

/-- A look-up character (R110, steps 3 to 9). -/
def lookUpAndKey (c : Byte) (s : State) : Outcome :=
  match load (resolve (latch c s)) with
  | some t => .next (keyLoaded t)
  | none => .fault .tableIndex

/-! ## Hardware reset -/

/-- A hardware reset at any moment (R161): the running command is abandoned and the registers become those of R160's
first column; the platform is not touched, so `KEY` and `TONE_ON` keep what it was last told. The table, the commands the
host still presents and the observation so far are not the core's to change. DESIGN CHOICE (unsafe), log 8. -/
def hardwareReset (s : State) : State :=
  { State.reset with
    key := s.key, toneOn := s.toneOn, table := s.table, host := s.host, trace := s.trace, rsp := s.rsp, free := s.free }

end Sys2Proof.Machine
end

