-- ==== Sys2Proof/Machine/Characters.lean ====
section
/-!
DEFINITION. The ten character classes, each one whole `send` of one character (44_timing_fsm.md R110 to R124): what is
keyed, the gap, the returned code, and the end of the character (phase `DONE`).
-/
namespace Sys2Proof.Machine

/-- A prosign delimiter (R110, step 2): complement the flag and report the delimiter; no event. -/
def delimiter (c : Byte) (s : State) : State :=
  finish (setRet c (togglePro (latch c s)))

/-- `CTRL` (R114). -/
def execCtrl (c : Byte) (s : State) : Outcome := lookUpAndKey c s

/-- `SP` (R111): the word gap and nothing else. -/
def execSp (s : State) : Outcome := .next (finish (wordGap (setRet 32 (latch 32 s))))

/-- `SYM` (R115). -/
def execSym (c : Byte) (s : State) : Outcome := lookUpAndKey c s

/-- `PRO_OPEN` (R112). -/
def execProOpen (s : State) : Outcome := .next (delimiter 60 s)

/-- `PRO_CLOSE` (R113). -/
def execProClose (s : State) : Outcome := .next (delimiter 62 s)

/-- `LOW` (R116). -/
def execLow (c : Byte) (s : State) : Outcome := lookUpAndKey c s

/-- `OOR` (R119). -/
def execOor (c : Byte) (s : State) : Outcome := lookUpAndKey c s

/-- `ACC` (R117). -/
def execAcc (c : Byte) (s : State) : Outcome := lookUpAndKey c s

/-- `OORF` (R120). -/
def execOorf (c : Byte) (s : State) : Outcome := lookUpAndKey c s

/-- `ACCL` (R118). -/
def execAccl (c : Byte) (s : State) : Outcome := lookUpAndKey c s

end Sys2Proof.Machine
end

