-- ==== Sys2Proof/Machine/Commands.lean ====
section
/-!
DEFINITION. `SEND_CHAR`, `SEND_SEQ` and the terminator `END` (44_timing_fsm.md R110, R125, R126).
-/
namespace Sys2Proof.Machine

/-- The per-character machine of R110: the tests for space and delimiter see the raw code, before folding. -/
def sendCharacter (c : Byte) (s : State) : Outcome :=
  if c = 32 then execSp s
  else if c = 60 then execProOpen s
  else if c = 62 then execProClose s
  else lookUpAndKey c s

/-- `SEND_CHAR(c)` (R110). Held while the core is busy or not constructed (R128, R162; log 9). -/
def execSendChar (c : Byte) (s : State) : Outcome :=
  if admitsSend s then sendCharacter c { s with inseq := false } else .next s

/-- `END` (R126): the sequence ends; no event, no flag, no returned byte. -/
def execEndSeq (s : State) : Outcome := .next { s with phase := .idle, inseq := false }

/-- The loop of R125 over the bytes not yet fetched. A list that runs out before a terminator leaves the core in phase
`FETCH`, waiting for a byte (R170; log 11). A character that never completes (R105) leaves it in phase `TEST`. -/
def runStream : List Byte → State → Outcome
  | [], s => .next s
  | b :: rest, s =>
    if b = 0 then execEndSeq s
    else
      match sendCharacter b s with
      | .next t => if t.phase = .fetch then runStream rest t else .next t
      | .fault f => .fault f
      | .refused r => .refused r

/-- Acceptance of `SEND_SEQ` (R127, phase `IDLE`): `INSEQ <- 1`, `SP <- 0`. -/
def startStream (stream : List Byte) (s : State) : State :=
  { s with inseq := true, sp := 0, stream := stream, phase := .fetch }

/-- `SEND_SEQ(s)` (R125). Held while the core is busy or not constructed (R128, R162; log 9). -/
def execSendSeq (stream : List Byte) (s : State) : Outcome :=
  if admitsSend s then runStream stream (startStream stream s) else .next s

end Sys2Proof.Machine
end

