-- ==== Sys2Proof/Config.lean ====
section
/-!
DEFINITION. The free values: what 70_reset_and_hazards.md R160 leaves unspecified after a construction. Each is a
constant without a body, applied to the state's counter `free`, so that nothing can be proved of any of them.
DESIGN CHOICE (safe), log 7. The table, the pin and the other parameters of 00_scope.md section 4 are operands or plain
fields of the state (logs 3 and 13), so a statement over all states holds for all of their values.
-/
namespace Sys2Proof.Config

/-- What `C` holds after a construction (R160). -/
opaque freeC : Nat → BitVec 8

/-- What `OFFR` holds after a construction (R160). -/
opaque freeOffr : Nat → BitVec 7

/-- What `IDX` holds after a construction (R160). -/
opaque freeIdx : Nat → BitVec 8

/-- What `V` holds after a construction (R160). -/
opaque freeV : Nat → BitVec 8

/-- What `RET` holds after a construction (R160). -/
opaque freeRet : Nat → BitVec 8

/-- What `SP` holds after a construction (R160). -/
opaque freeSp : Nat → Nat

/-- What `TONE_CH` holds after `CONSTRUCT3`: "no value (never read)" (R160). -/
opaque freeToneCh : Nat → Nat

/-- What `TONE_FREQ` holds after `CONSTRUCT3`: "no value (never read)" (R160). -/
opaque freeToneFreq : Nat → Rat

end Sys2Proof.Config
end

