-- ==== Sys2Proof/Machine/Construct.lean ====
section
/-!
DEFINITION. The two construction commands (41_construct.md R80, R81), the only writers of the configuration registers.
-/
namespace Sys2Proof.Machine

/-- The registers that R160 leaves unspecified after a construction take free values. DESIGN CHOICE (safe), log 7. -/
def freeWorking (s : State) : State :=
  { s with
    c := Config.freeC s.free, offr := Config.freeOffr s.free, idx := Config.freeIdx s.free, v := Config.freeV s.free,
    ret := Config.freeRet s.free, sp := Config.freeSp s.free, free := s.free + 1 }

/-- The timing registers from the operand `speed` (R82 to R84, R87). -/
def setTiming (speed : Wpm) (s : State) : State :=
  { s with
    speed := speed, eff := effective speed, unit := unitOf (effective speed), dash := dashOf (unitOf (effective speed)) }

/-- The side effects of construction: `CFG(PIN)`, then the idle level; the tone is off (R85, D14, D21). -/
def initOutput (s : State) : State :=
  { driveLevel (idleLevel s) (emit (.cfg s.pin) s) with toneOn := false }

/-- What the two forms have in common (R80, R88): a new core in place of the old one. -/
def construct (pin : PinId) (speed : Wpm) (invert : Bool) (s : State) : State :=
  let s := freeWorking s
  let s := setTiming speed { s with pin := pin, invert := invert, prosign := false }
  let s := initOutput s
  { s with constructed := true, inseq := false, phase := .idle }

/-- `CONSTRUCT3` (R80): no tone channel; `TONE_CH` and `TONE_FREQ` hold no value (R160, log 7). Held while busy (R89). -/
def execConstruct3 (pin : PinId) (speed : Wpm) (invert : Bool) (s : State) : Outcome :=
  if admitsConstruct s then
    .next (construct pin speed invert
      { s with toneEn := false, toneCh := Config.freeToneCh s.free, toneFreq := Config.freeToneFreq s.free })
  else .next s

/-- `CONSTRUCT5` (R81): with a tone channel, passed through unchecked. Held while busy (R89). -/
def execConstruct5 (pin : PinId) (speed : Wpm) (toneCh : ToneId) (freq : Hz) (invert : Bool) (s : State) : Outcome :=
  if admitsConstruct s then
    .next (construct pin speed invert { s with toneEn := true, toneCh := toneCh, toneFreq := freq })
  else .next s

end Sys2Proof.Machine
end

