-- ==== Sys2Proof/Machine/Elements.lean ====
section
/-!
DEFINITION. The two elements, the pulse primitives of output_driver (42_output_driver.md R93, R94).
-/
namespace Sys2Proof.Machine

/-- `DOT` (R93). -/
def execDot (s : State) : Outcome := .next (dotPulse s)

/-- `DASH` (R94). -/
def execDash (s : State) : Outcome := .next (dashPulse s)

end Sys2Proof.Machine
end

