-- ==== Sys2Proof/Machine/Dispatch.lean ====
section
/-!
DEFINITION. The meaning of every instruction: one arm per constructor, one direct call each.
-/
namespace Sys2Proof.Machine

-- The outcome of one instruction.
def exec (i : Instr) (s : State) : Host.Outcome State Fault Refusal :=
  match i with
  | .ctrl c => Sys2Proof.Machine.execCtrl c s
  | .sp => Sys2Proof.Machine.execSp s
  | .sym c => Sys2Proof.Machine.execSym c s
  | .proOpen => Sys2Proof.Machine.execProOpen s
  | .proClose => Sys2Proof.Machine.execProClose s
  | .low c => Sys2Proof.Machine.execLow c s
  | .oor c => Sys2Proof.Machine.execOor c s
  | .acc c => Sys2Proof.Machine.execAcc c s
  | .oorf c => Sys2Proof.Machine.execOorf c s
  | .accl c => Sys2Proof.Machine.execAccl c s
  | .construct3 pin speed invert => Sys2Proof.Machine.execConstruct3 pin speed invert s
  | .construct5 pin speed toneCh freq invert => Sys2Proof.Machine.execConstruct5 pin speed toneCh freq invert s
  | .sendChar c => Sys2Proof.Machine.execSendChar c s
  | .sendSeq stream => Sys2Proof.Machine.execSendSeq stream s
  | .dot => Sys2Proof.Machine.execDot s
  | .dash => Sys2Proof.Machine.execDash s
  | .endSeq => Sys2Proof.Machine.execEndSeq s

end Sys2Proof.Machine
end

