-- ==== Sys2Proof/Machine/Fetch.lean ====
section
/-!
DEFINITION. Where the machine reads its next instruction, and what taking it changes beside the instruction itself: a
command word in phase `IDLE` (R7, R128), a byte of the stream in phase `FETCH` (R125, R126), the latched character in phase
`CLASSIFY` (R110, R127), an element bit in phase `TEST` (R101).
-/
namespace Sys2Proof.Machine

/-- The next instruction, decoded; none where the phase reads none or nothing is presented. -/
def fetch (s : State) : Option Instr :=
  match s.phase with
  | .idle => s.host.head?.map decodeCommand
  | .fetch => s.stream[s.sp]?.map decodeStreamByte
  | .classify => some (decodeChar s.c)
  | .test => if s.v = 1 then none else some (decodeElement (s.v.getLsbD 0))
  | .wordGap | .load | .pTon | .pOn | .pMark | .pOff | .pTof | .pGap | .letterGap | .done => none

/-- The presented command is accepted now (R89, R128, R162). -/
def accepts (i : Instr) (s : State) : Bool :=
  match i with
  | .construct3 _ _ _ => admitsConstruct s
  | .construct5 _ _ _ _ _ => admitsConstruct s
  | .sendChar _ => admitsSend s
  | .sendSeq _ => admitsSend s
  | .ctrl _ | .sp | .sym _ | .proOpen | .proClose | .low _ | .oor _ | .acc _ | .oorf _ | .accl _ | .dot | .dash | .endSeq =>
    false

/-- An accepted command is taken from the host; one that is not accepted stays presented (R128). -/
def take (i : Instr) (s : State) : State :=
  if accepts i s then { s with host := s.host.tail } else s

/-- What follows an instruction fetched in the state `s`: an element is shifted out of `V` (R101). -/
def retire (s : State) (o : Outcome) : Outcome :=
  match s.phase, o with
  | .test, .next t => .next (shiftV t)
  | _, o => o

end Sys2Proof.Machine
end

