-- ==== Sys2Proof/Machine/Phases.lean ====
section
/-!
DEFINITION. The small-step machine of 44_timing_fsm.md R127: one row of its table per step, one event at most. It is the
whole machine, also between the instructions that `step` runs as a whole.
-/
namespace Sys2Proof.Machine

/-- Phase `IDLE` (R127): take the presented command, if it is accepted (R89, R128, R162). -/
def phaseIdle (s : State) : Outcome :=
  match s.host with
  | [] => .next s
  | k :: rest =>
    if k.op = 0 then execConstruct3 k.pin k.speed k.invert { s with host := rest }
    else if k.op = 1 then execConstruct5 k.pin k.speed k.toneCh k.freq k.invert { s with host := rest }
    else if !admitsSend s then .next s
    else if k.op = 2 then .next (setPhase .classify (latch k.char { s with host := rest, inseq := false }))
    else .next (startStream k.stream { s with host := rest })

/-- Phase `FETCH` (R127): read `s[SP]`; wait where the stream has presented no such byte (R170). -/
def phaseFetch (s : State) : Outcome :=
  match s.stream[s.sp]? with
  | none => .next s
  | some b => if b = 0 then execEndSeq s else .next (setPhase .classify (latch b s))

/-- Phase `CLASSIFY` (R127). -/
def phaseClassify (s : State) : Outcome :=
  if s.c = 32 then .next (setPhase .wordGap (setRet 32 s))
  else if s.c = 60 ∨ s.c = 62 then .next (setPhase .done (setRet s.c (togglePro s)))
  else .next (setPhase .load (resolve s))

/-- Phase `LOAD` (R127, R71, R39). -/
def phaseLoad (s : State) : Outcome :=
  match load s with
  | some t => .next (setPhase .test t)
  | none => .fault .tableIndex

/-- Phase `TEST` (R127). -/
def phaseTest (s : State) : Outcome :=
  if s.v ≠ 1 then .next (setPhase (if s.toneEn then .pTon else .pOn) s)
  else .next (setPhase (if gapDue s then .letterGap else .done) s)

/-- One row of the table of R127. -/
def phaseStep (s : State) : Outcome :=
  match s.phase with
  | .idle => phaseIdle s
  | .fetch => phaseFetch s
  | .classify => phaseClassify s
  | .wordGap => .next (setPhase .done (wordGap s))
  | .load => phaseLoad s
  | .test => phaseTest s
  | .pTon => .next (setPhase .pOn (startTone s))
  | .pOn => .next (setPhase .pMark (driveLevel (activeLevel s) s))
  | .pMark => .next (setPhase .pOff (delay (if s.v.getLsbD 0 then s.dash else s.unit) s))
  | .pOff => .next (setPhase (if s.toneEn then .pTof else .pGap) (driveLevel (idleLevel s) s))
  | .pTof => .next (setPhase .pGap (stopTone s))
  | .pGap => .next (setPhase .test (shiftV (delay s.unit s)))
  | .letterGap => .next (setPhase .done (delay (2 * s.unit) s))
  | .done => .next (finish s)

/-- The small-step machine with its reset input: one row of the table of R127, or the hardware reset of R161. -/
def smallStep (s : State) : Outcome :=
  if s.rst then .next (hardwareReset s) else phaseStep s

/-- `n` rows of the table of R127. -/
def phaseRun : Nat → State → Outcome
  | 0, s => .next s
  | n + 1, s =>
    match phaseStep s with
    | .next t => phaseRun n t
    | .fault f => .fault f
    | .refused r => .refused r

end Sys2Proof.Machine
end

