-- ==== Sys2Proof/Machine/Step.lean ====
section
/-!
DEFINITION. One step of the core: a hardware reset if its input is asserted (R161), else the instruction at the fetch
point as a whole (the big-step rules R110 to R126 are the normative ones, R127), else one row of the phase table of R127.
Log 1.
-/
namespace Sys2Proof.Machine

/-- One step. -/
def step (s : State) : Host.Outcome State Fault Refusal :=
  if s.rst then .next (hardwareReset s)
  else
    match fetch s with
    | some i => retire s (exec i (take i s))
    | none => phaseStep s

/-- `s` with the instruction of `decodeTableWord` where the next step reads it (log 26): a byte as the next byte of a
stream that is being sent, one element bit as the last element left in `V`, a command selector as the presented command.
The core is constructed and not held in reset, as the fetch needs. -/
def State.withFetchWord (s : State) (nbits w : Nat) : State :=
  if nbits = 1 then
    { s with rst := false, constructed := true, phase := .test, v := BitVec.ofNat 8 (2 + w % 2) }
  else if nbits = 2 then
    { s with
      rst := false, constructed := true, inseq := false, phase := .idle,
      host := [CommandWord.blank (BitVec.ofNat 2 w)] }
  else
    { s with
      rst := false, constructed := true, inseq := true, phase := .fetch, sp := 0, stream := [BitVec.ofNat 8 w, 0] }

end Sys2Proof.Machine
end

