-- ==== Sys2Proof/Machine/Instances.lean ====
section
/-!
DEFINITION. Several cores side by side (60_exceptions.md R149 to R151; 20_memory.md R43): each owns all of its state, they
share only the read-only table, and they run as the host interleaves its commands. A host that overlaps commands of two
cores on one tone channel is refused (R150, U5). Log 28.
-/
namespace Sys2Proof.Machine

/-- The tone channel a core is configured with (R14). -/
def ownTone (s : State) : Option ToneId :=
  if s.toneEn then some s.toneCh else none

/-- The tone channel of the instance that runs the command `i` on the core `s`: a construction makes a new instance (R88),
which has the channel of its operand (R81) or none (R80). -/
def commandTone (i : Instr) (s : State) : Option ToneId :=
  match i with
  | .construct3 _ _ _ => none
  | .construct5 _ _ toneCh _ _ => some toneCh
  | .sendChar _ | .sendSeq _ | .ctrl _ | .sp | .sym _ | .proOpen | .proClose | .low _ | .oor _ | .acc _ | .oorf _ | .accl _
  | .dot | .dash | .endSeq => ownTone s

/-- The tone channel of the command that the next step of a core starts or goes on with; none where it waits, is reset, or
has no tone. -/
def nextTone (s : State) : Option ToneId :=
  if s.rst then none
  else if s.phase = .idle then
    match fetch s with
    | some i => if accepts i s then commandTone i s else none
    | none => none
  else ownTone s

/-- A command is running on the core (R22), and the core has the tone channel `ch`. -/
def busyOn (ch : ToneId) (s : State) : Bool :=
  decide (s.phase ≠ .idle) && decide (ownTone s = some ch)

/-- The next step of core number `k` would overlap a running command of another core on the same tone channel (R150). -/
def toneOverlap (k : Nat) (cores : List State) (s : State) : Bool :=
  match nextTone s with
  | none => false
  | some ch => (cores.eraseIdx k).any (busyOn ch)

/-- Core number `k` makes one step of the machine `next`; the others wait. A number that no core has changes nothing. -/
def runInstance (next : State → Outcome) (k : Nat) (cores : List State) : Host.Outcome (List State) Fault Refusal :=
  match cores[k]? with
  | none => .next cores
  | some s =>
    if toneOverlap k cores s then .refused .toneShared
    else
      match next s with
      | .next t => .next (cores.set k t)
      | .fault f => .fault f
      | .refused r => .refused r

/-- One step of core number `k`, whole instructions at a time. -/
def stepInstance (k : Nat) (cores : List State) : Host.Outcome (List State) Fault Refusal :=
  runInstance step k cores

/-- One row of the phase table (R127) of core number `k`: a command of one core can overlap one of another. -/
def phaseInstance (k : Nat) (cores : List State) : Host.Outcome (List State) Fault Refusal :=
  runInstance smallStep k cores

/-- All cores read one physical table (R24, R43). -/
abbrev shareTable (cores : List State) (table : List Host.Cell) : Prop :=
  ∀ s ∈ cores, s.table = table

end Sys2Proof.Machine
end

