-- ==== Sys2Proof/Safety.lean ====
section
/-!
DEFINITION. The terms in which claims about the machine are stated: admissible tables (40_morse_encoder.md R69), the
observation of a run (00_scope.md R5, R6), the events of a pulse and of a character (R93, R94, R121, R122), the explicit
next state of a look-up character, and the invariant every step keeps.
-/
namespace Sys2Proof.Safety

open Sys2Proof.Machine

/-! ## The table -/

/-- Constraint (a) of R69: every entry is a symbol byte. -/
abbrev NoZero (t : List Host.Cell) : Prop := ∀ i, i < 70 → Memory.byteAt t i ≠ 0

/-- The constraints (a), (b), (c) of R69 on a table. -/
abbrev Admissible (t : List Host.Cell) : Prop :=
  NoZero t ∧ Memory.byteAt t 2 = 1 ∧ Memory.byteAt t 36 = 2 ∧ Memory.byteAt t 46 = 15

/-- The rows of R65: code, offset, slot. -/
def accentRows : List (Byte × BitVec 7 × Byte) :=
  [(209, 112, 64), (193, 95, 65), (201, 102, 66), (205, 105, 67), (211, 110, 68), (218, 116, 69), (220, 118, 69)]

/-- The symbol byte that the character `c` looks up (R71, R73). -/
def symbolOf (s : State) (c : Byte) : Byte := Memory.byteAt s.table (indexOf c).toNat

/-! ## The observation -/

/-- The time an event takes: only a delay takes any (R6). -/
def duration : Event → Rat
  | .dly d => d
  | .cfg _ => 0
  | .lvl _ _ => 0
  | .ton _ _ => 0
  | .tof _ => 0

/-- The sum of the delays of a trace (R6, R163). -/
def totalTime (tr : List Event) : Rat := (tr.map duration).sum

/-- Puts an event in front of a merged trace; two delays in a row become one (R5). -/
def mergeCons : Event → List Event → List Event
  | .dly d, .dly e :: rest => .dly (d + e) :: rest
  | e, rest => e :: rest

/-- Every maximal run of delays becomes one delay (R5, D3). -/
def mergeDelays : List Event → List Event
  | [] => []
  | e :: rest => mergeCons e (mergeDelays rest)

/-- Two traces are the same observation (R5, D3). -/
def sameTrace (a b : List Event) : Prop := mergeDelays a = mergeDelays b

/-- The event is no delay. -/
def notDelay : Event → Bool
  | .dly _ => false
  | .cfg _ | .lvl _ _ | .ton _ _ | .tof _ => true

/-- What `KEY` holds after an event (R23, R92). -/
def keyAfter (k : Bool) : Event → Bool
  | .lvl _ l => l
  | .cfg _ | .dly _ | .ton _ _ | .tof _ => k

/-- What `TONE_ON` holds after an event (R23, R92). -/
def toneAfter (k : Bool) : Event → Bool
  | .ton _ _ => true
  | .tof _ => false
  | .cfg _ | .lvl _ _ | .dly _ => k

/-- The wire `key_out` of the port-level reading (R98). -/
def keyOut (s : State) : Bool := s.key

/-- The wire `tone_gate` of the port-level reading (R98). -/
def toneGate (s : State) : Bool := s.toneOn

/-! ## What a character keys -/

/-- The event list of one pulse with active time `mark` (R93, R94): six events with a tone, four without. -/
def pulseEvents (s : State) (mark : Millis) : List Event :=
  (if s.toneEn then [.ton s.toneCh s.toneFreq] else [])
    ++ [.lvl s.pin (!s.invert), .dly mark, .lvl s.pin s.invert]
    ++ (if s.toneEn then [.tof s.toneCh] else [])
    ++ [.dly s.unit]

/-- The events of one element, `true` for a dash (R93, R94). -/
def elementEvents (s : State) (dash : Bool) : List Event :=
  pulseEvents s (if dash then s.dash else s.unit)

/-- The events of a sequence of elements, in keying order (R121). -/
def keyEvents (s : State) (es : List Bool) : List Event := es.flatMap (elementEvents s)

/-- The events of the inter-letter gap (R122). -/
def gapEvents (s : State) : List Event := if s.prosign then [] else [.dly (2 * s.unit)]

/-- Duration of a sequence of elements in unit durations: a dot 2, a dash 4 (R129). -/
def keyUnits (es : List Bool) : Nat := (es.map fun dash => if dash then 4 else 2).sum

/-- Phase `DONE` written out (R127). -/
def ended (s : State) : State :=
  if s.inseq then { s with sp := s.sp + 1, phase := .fetch } else { s with rsp := s.rsp ++ [s.ret], phase := .idle }

/-- The state after a look-up character has been sent whole: `c'` is the normalised code, `off` and `idx` the offset and the
index after the clamp, `r` the returned code, `es` the elements keyed (R110 steps 3 to 9). Everything not named here is
as before. -/
def looked (s : State) (c' : Byte) (off : BitVec 7) (idx r : Byte) (es : List Bool) : State :=
  ended { s with
    c := c', offr := off, idx := idx, v := 1, ret := r,
    trace := s.trace ++ keyEvents s es ++ gapEvents s,
    key := if es = [] then s.key else s.invert,
    toneOn := if es = [] then s.toneOn else s.toneOn && !s.toneEn }

/-- No configuration register differs (R11 to R15). -/
structure SameConfig (s t : State) : Prop where
  pin : t.pin = s.pin
  invert : t.invert = s.invert
  speed : t.speed = s.speed
  eff : t.eff = s.eff
  unit : t.unit = s.unit
  dash : t.dash = s.dash
  toneEn : t.toneEn = s.toneEn
  toneCh : t.toneCh = s.toneCh
  toneFreq : t.toneFreq = s.toneFreq
  constructed : t.constructed = s.constructed

/-- No memory, no input line and no counter of the model differs: the table byte by byte, the stream, the presented
commands, the reset line. -/
structure SameInputs (s t : State) : Prop where
  bytes : ∀ i, Memory.read t.table i = Memory.read s.table i
  stream : t.stream = s.stream
  host : t.host = s.host
  rst : t.rst = s.rst
  free : t.free = s.free

/-- No working register differs (R17 to R20). -/
structure SameWorking (s t : State) : Prop where
  c : t.c = s.c
  offr : t.offr = s.offr
  idx : t.idx = s.idx
  v : t.v = s.v
  ret : t.ret = s.ret

/-- No register differs: the architectural state of sections 2 to 6 of 10_state.md (R11 to R23). The table, the stream,
the presented commands, the reset line, the observation and the model's counter are none (R24). -/
structure SameRegisters (s t : State) : Prop where
  config : SameConfig s t
  prosign : t.prosign = s.prosign
  working : SameWorking s t
  sp : t.sp = s.sp
  inseq : t.inseq = s.inseq
  phase : t.phase = s.phase
  key : t.key = s.key
  toneOn : t.toneOn = s.toneOn

/-- Two runs that end in `s` and `t` are the same observation: traces that merge alike, the same returned bytes, and the
same architectural state (R5). -/
def sameObservation (s t : State) : Prop :=
  sameTrace s.trace t.trace ∧ s.rsp = t.rsp ∧ SameRegisters s t

/-- The instruction is one of the ten character classes (R47). -/
def isChar : Instr → Bool
  | .ctrl _ | .sp | .sym _ | .proOpen | .proClose | .low _ | .oor _ | .acc _ | .oorf _ | .accl _ => true
  | .construct3 _ _ _ | .construct5 _ _ _ _ _ | .sendChar _ | .sendSeq _ | .dot | .dash | .endSeq => false

/-- The instruction is one of the two constructions (R80, R81). -/
def isConstruct : Instr → Bool
  | .construct3 _ _ _ | .construct5 _ _ _ _ _ => true
  | .ctrl _ | .sp | .sym _ | .proOpen | .proClose | .low _ | .oor _ | .acc _ | .oorf _ | .accl _ | .sendChar _
  | .sendSeq _ | .dot | .dash | .endSeq => false

/-- The code a character instruction reports, class by class (R73, R123); 0 for an instruction that reports none. -/
def classReturn : Instr → Byte
  | .ctrl _ => 35
  | .sp => 32
  | .sym c => c
  | .proOpen => 60
  | .proClose => 62
  | .low c => c - 32
  | .oor _ => 35
  | .acc c => c
  | .oorf _ => 35
  | .accl c => c - 32
  | .construct3 _ _ _ | .construct5 _ _ _ _ _ | .sendChar _ | .sendSeq _ | .dot | .dash | .endSeq => 0

/-- Sending the bytes of a string as that many `SEND_CHAR` commands, one after the other. -/
def sendAll : List Byte → State → Outcome
  | [], s => .next s
  | b :: rest, s =>
    match exec (.sendChar b) s with
    | .next t => sendAll rest t
    | .fault f => .fault f
    | .refused r => .refused r

/-- How many prosign delimiters a byte string holds (R130). -/
def delimiters (bs : List Byte) : Nat := bs.countP fun b => b = 60 || b = 62

/-! ## The invariant -/

/-- The output is at the active level (R93, R94). -/
def marking : Phase → Bool
  | .pMark | .pOff => true
  | .idle | .fetch | .classify | .wordGap | .load | .test | .pTon | .pOn | .pTof | .pGap | .letterGap | .done => false

/-- The tone, where there is one, sounds (R95). -/
def sounding : Phase → Bool
  | .pOn | .pMark | .pOff | .pTof => true
  | .idle | .fetch | .classify | .wordGap | .load | .test | .pTon | .pGap | .letterGap | .done => false

/-- What every step keeps. -/
structure Inv (s : State) : Prop where
  /-- The table is in its canonical form. -/
  canonical : Memory.wf s.table
  /-- The timing registers are those derived from the speed (R82 to R84). -/
  timing : s.constructed = true → s.eff = effective s.speed ∧ s.unit = 1200 / s.eff ∧ s.dash = 3 * s.unit
  /-- The output is active exactly while a pulse marks (R23, R96). -/
  level : s.constructed = true → s.key = (s.invert ^^ marking s.phase)
  /-- The tone sounds exactly inside its bracket (R23, R95, R96). -/
  tone : s.constructed = true → s.toneOn = (s.toneEn && sounding s.phase)
  /-- The tone phases are entered only with a tone channel (R127). -/
  tonePhases : s.constructed = true → s.phase = .pTon ∨ s.phase = .pTof → s.toneEn = true
  /-- Nothing runs before construction (R162). -/
  unbuilt : s.constructed = false → s.phase = .idle
  /-- `INSEQ` is 0 between commands (R21). -/
  between : s.phase = .idle → s.inseq = false
  /-- A byte is fetched only inside a sequence (R127). -/
  fetching : s.phase = .fetch → s.inseq = true
  /-- The table is read inside its range (R39). -/
  range : s.phase = .load → s.idx.toNat < 70

end Sys2Proof.Safety
end

