-- ==== Sys2Proof/Certificates/Slice0/Obligations.lean ====
section
/-!
DEFINITION. The statements for the provers. Each docstring names the rule of spec/ it formalises. A statement about a state
that no run reaches is made only under a premise that the invariant of `StepKeepsInvariant` gives.
-/

section Statements

open Sys2Proof Sys2Proof.Machine Sys2Proof.Safety

/-! ## Encodings (30_encoding.md, 43_pulse_decoder.md) -/

/-- R47, R48, R49, R54: an encoded well-formed instruction decodes to itself, every operand at every value. -/
def Obligations.DecodeOfEncode : Prop :=
  ∀ i : Instr, wellFormed i = true → decode (encode i) = i

/-- R51: every character word matches exactly one row of the opcode table, the row of the class it decodes to; what it
decodes to is well-formed and encodes back to the word. -/
def Obligations.CharacterRowsPartitionTheWords : Prop :=
  ∀ c : Byte,
    (charRows.filter fun r => r.applies c).map CharRow.mnemonic = [mnemonic (decodeChar c)] ∧
    wellFormed (decodeChar c) = true ∧ encode (decodeChar c) = .charWord c

/-- Words written out from R47, R48, R49 and R54 decode to the instructions they stand for. -/
def Obligations.SpecWordsDecode : Prop :=
  decode (.charWord 0x0A) = .ctrl 0x0A ∧ decode (.charWord 0x20) = .sp ∧ decode (.charWord 0x4B) = .sym 0x4B ∧
  decode (.charWord 0x3C) = .proOpen ∧ decode (.charWord 0x3E) = .proClose ∧ decode (.charWord 0x6B) = .low 0x6B ∧
  decode (.charWord 0x7E) = .oor 0x7E ∧ decode (.charWord 0xD1) = .acc 0xD1 ∧ decode (.charWord 0xE7) = .oorf 0xE7 ∧
  decode (.charWord 0xF1) = .accl 0xF1 ∧ decode (.charWord 0x00) = .ctrl 0 ∧ decode (.streamByte 0x00) = .endSeq ∧
  decode (.elementBit false) = .dot ∧ decode (.elementBit true) = .dash ∧
  decode (.command { CommandWord.blank 2 with char := 0x45 }) = .sendChar 0x45

/-- R102: packing is the formula of the rule, and packing and unpacking are inverse to each other. -/
def Obligations.PackUnpackInverse : Prop :=
  (∀ es : List Bool, es.length ≤ 7 →
    (pack es).toNat = 2 ^ es.length + (es.zipIdx.map fun p => if p.1 then 2 ^ p.2 else 0).sum ∧
    unpack (pack es) = es) ∧
  ∀ b : Byte, b ≠ 0 → pack (unpack b) = b

/-- R101: from a symbol byte with highest set bit `n` the loop keys exactly `n` elements, bit `k - 1` being the `k`-th, and
leaves `V = 1`; it writes no flag. -/
def Obligations.DecodingLoopKeysTheSymbol : Prop :=
  ∀ s : State, s.v ≠ 0 →
    (unpack s.v).length = Nat.log2 s.v.toNat ∧
    (∀ k, k < Nat.log2 s.v.toNat → (unpack s.v)[k]? = some (s.v.getLsbD k)) ∧
    (keyRounds 7 s).v = 1 ∧ (keyRounds 7 s).trace = s.trace ++ keyEvents s (unpack s.v) ∧
    (keyRounds 7 s).prosign = s.prosign

/-- R106: after `j` elements `V` is the symbol shifted by `j`, it is not 0, and what is left to key is what it unpacks to. -/
def Obligations.DecodingLoopInvariant : Prop :=
  ∀ (s : State) (j : Nat), s.v ≠ 0 → j ≤ (unpack s.v).length →
    (keyRounds j s).v = s.v >>> j ∧ (keyRounds j s).v ≠ 0 ∧ unpack (keyRounds j s).v = (unpack s.v).drop j ∧
    (keyRounds j s).trace = s.trace ++ keyEvents s ((unpack s.v).take j)

/-- R105: from `V = 0` the core keys dots for ever. That a step keys one whole dot and is back in `TEST` after it is the
model's choice (logs 1 and 10): by R127 the core passes through the pulse phases in between. -/
def Obligations.ZeroByteKeysDotsForEver : Prop :=
  ∀ (s : State) (n : Nat), s.rst = false → s.phase = .test → s.v = 0 →
    ∃ t, core.run n s = .next t ∧ t.phase = .test ∧ t.v = 0 ∧
      t.trace = s.trace ++ keyEvents s (List.replicate n false)

/-! ## The pulse (42_output_driver.md) -/

/-- R93: the six steps of a dot with a tone channel, the four without; nothing else changes. -/
def Obligations.DotEvents : Prop :=
  ∀ s : State,
    (s.toneEn = true → exec .dot s = .next { s with
      trace := s.trace ++ [.ton s.toneCh s.toneFreq, .lvl s.pin (!s.invert), .dly s.unit, .lvl s.pin s.invert,
        .tof s.toneCh, .dly s.unit],
      key := s.invert, toneOn := false }) ∧
    (s.toneEn = false → exec .dot s = .next { s with
      trace := s.trace ++ [.lvl s.pin (!s.invert), .dly s.unit, .lvl s.pin s.invert, .dly s.unit], key := s.invert })

/-- R94: the same for a dash, active for `3·U`; the last gap is `U`. The premise is the invariant's (R84). -/
def Obligations.DashEvents : Prop :=
  ∀ s : State, s.dash = 3 * s.unit →
    (s.toneEn = true → exec .dash s = .next { s with
      trace := s.trace ++ [.ton s.toneCh s.toneFreq, .lvl s.pin (!s.invert), .dly (3 * s.unit), .lvl s.pin s.invert,
        .tof s.toneCh, .dly s.unit],
      key := s.invert, toneOn := false }) ∧
    (s.toneEn = false → exec .dash s = .next { s with
      trace := s.trace ++ [.lvl s.pin (!s.invert), .dly (3 * s.unit), .lvl s.pin s.invert, .dly s.unit],
      key := s.invert })

/-! ## The ten character classes (44_timing_fsm.md) -/

/-- R111: the space delays 7 units whatever the prosign mode, and reports 32; nothing else is done. -/
def Obligations.SpaceDelaysSevenUnits : Prop :=
  ∀ s : State, exec .sp s =
    .next (ended { s with c := 32, ret := 32, trace := s.trace ++ [.dly (7 * s.unit)] })

/-- R112 and R113: each delimiter complements the flag, issues nothing and reports itself. -/
def Obligations.DelimitersComplementProsign : Prop :=
  ∀ s : State,
    exec .proOpen s = .next (ended { s with c := 60, ret := 60, prosign := !s.prosign }) ∧
    exec .proClose s = .next (ended { s with c := 62, ret := 62, prosign := !s.prosign })

/-- R114: a control code is replaced by `#`, keys the entry at index 2, takes the letter gap and returns 35; with the
entry 1 that R69 (b) asks for nothing is keyed. In a stream the byte 0 is `END` and not a control code; that the terminator
is 0 is the spec's decision D7, log 22. -/
def Obligations.ControlActsAsPlaceholder : Prop :=
  (∀ (s : State) (c : Byte), wellFormed (.ctrl c) = true →
    (Memory.byteAt s.table 2 ≠ 0 →
      exec (.ctrl c) s = .next (looked s 35 0 2 35 (unpack (Memory.byteAt s.table 2)))) ∧
    (Memory.byteAt s.table 2 = 1 → exec (.ctrl c) s = .next (looked s 35 0 2 35 []))) ∧
  decode (.streamByte 0) = .endSeq

/-- R115: a symbol keys the entry at its code less 33, takes the letter gap and returns its own code. -/
def Obligations.SymbolKeysItsEntry : Prop :=
  ∀ (s : State) (c : Byte), wellFormed (.sym c) = true → Memory.byteAt s.table (c.toNat - 33) ≠ 0 →
    exec (.sym c) s = .next (looked s c 0 (c - 33) c (unpack (Memory.byteAt s.table (c.toNat - 33))))

/-- R116: a lowercase letter is folded, keys the uppercase entry and returns the uppercase code. -/
def Obligations.LowercaseIsFolded : Prop :=
  ∀ (s : State) (c : Byte), wellFormed (.low c) = true → Memory.byteAt s.table (c.toNat - 65) ≠ 0 →
    exec (.low c) s = .next (looked s (c - 32) 0 (c - 65) (c - 32) (unpack (Memory.byteAt s.table (c.toNat - 65))))

/-- R117 with the offsets and slots of R65: an accented letter keys its slot and returns its own code; the seven rows are
all the codes of the class. Which letter has which slot is the spec's decision D9 (R64), log 21. -/
def Obligations.AccentedKeysItsSlot : Prop :=
  (∀ c : Byte, wellFormed (.acc c) = true ↔ c ∈ accentRows.map Prod.fst) ∧
  ∀ (s : State) (c : Byte) (off : BitVec 7) (slot : Byte), (c, off, slot) ∈ accentRows →
    Memory.byteAt s.table slot.toNat ≠ 0 →
    exec (.acc c) s = .next (looked s c off slot c (unpack (Memory.byteAt s.table slot.toNat)))

/-- R118: an accented lowercase letter is folded and is then as R117 with the uppercase code. Which letter has which slot
is the spec's decision D9 (R64), log 21. -/
def Obligations.AccentedLowercaseIsFolded : Prop :=
  (∀ c : Byte, wellFormed (.accl c) = true ↔ c - 32 ∈ accentRows.map Prod.fst) ∧
  ∀ (s : State) (c : Byte) (off : BitVec 7) (slot : Byte), (c - 32, off, slot) ∈ accentRows →
    Memory.byteAt s.table slot.toNat ≠ 0 →
    exec (.accl c) s = .next (looked s (c - 32) off slot (c - 32) (unpack (Memory.byteAt s.table slot.toNat)))

/-- R119: an out-of-range code has an index of 90 to 190 before the clamp, is clamped to the placeholder's index and
returns 35. -/
def Obligations.OutOfRangeIsClamped : Prop :=
  ∀ (s : State) (c : Byte), wellFormed (.oor c) = true →
    (rawIndex c 0).toNat = c.toNat - 33 ∧ 90 ≤ c.toNat - 33 ∧ c.toNat - 33 ≤ 190 ∧
    (Memory.byteAt s.table 2 ≠ 0 →
      exec (.oor c) s = .next (looked s c 0 2 35 (unpack (Memory.byteAt s.table 2)))) ∧
    (Memory.byteAt s.table 2 = 1 → exec (.oor c) s = .next (looked s c 0 2 35 []))

/-- R120: an out-of-range code from 224 up is folded, has an index of 159 to 190 before the clamp, is then clamped, and
returns 35. -/
def Obligations.OutOfRangeFoldedIsClamped : Prop :=
  ∀ (s : State) (c : Byte), wellFormed (.oorf c) = true →
    (rawIndex (c - 32) 0).toNat = c.toNat - 65 ∧ 159 ≤ c.toNat - 65 ∧ c.toNat - 65 ≤ 190 ∧
    (Memory.byteAt s.table 2 ≠ 0 →
      exec (.oorf c) s = .next (looked s (c - 32) 0 2 35 (unpack (Memory.byteAt s.table 2)))) ∧
    (Memory.byteAt s.table 2 = 1 → exec (.oorf c) s = .next (looked s (c - 32) 0 2 35 []))

/-- R105, R169: a look-up character whose entry is 0 does not complete: the decoder is left testing 0, nothing is returned,
and the letter gap is not reached. How many dots one step keys is the model's choice (log 10), so the statement says `n`. -/
def Obligations.ZeroEntryNeverCompletes : Prop :=
  ∀ (s : State) (c : Byte), c ≠ 32 → c ≠ 60 → c ≠ 62 → symbolOf s c = 0 →
    ∃ t, exec (decodeChar c) s = .next t ∧ t.phase = .test ∧ t.v = 0 ∧ t.rsp = s.rsp ∧ t.sp = s.sp ∧
      t.inseq = s.inseq ∧ ∃ n, t.trace = s.trace ++ keyEvents s (List.replicate n false)

/-- R97: `E` is one dot and then idle for 3 units, `O` is three dashes and the letter gap, outside prosign mode; the events
are written out for a core without a tone, and with one each pulse is that of R93 or R94. -/
def Obligations.LettersEAndO : Prop :=
  ∀ s : State, Admissible s.table → s.prosign = false → s.dash = 3 * s.unit →
    (∃ t, exec (.sym 0x45) s = .next t ∧ t.trace = s.trace ++ elementEvents s false ++ [.dly (2 * s.unit)] ∧
      (s.toneEn = false → t.trace = s.trace ++
        [.lvl s.pin (!s.invert), .dly s.unit, .lvl s.pin s.invert, .dly s.unit, .dly (2 * s.unit)])) ∧
    (∃ t, exec (.sym 0x4F) s = .next t ∧
      t.trace = s.trace ++ elementEvents s true ++ elementEvents s true ++ elementEvents s true ++
        [.dly (2 * s.unit)] ∧
      (s.toneEn = false → t.trace = s.trace ++
        ([Event.lvl s.pin (!s.invert), .dly (3 * s.unit), .lvl s.pin s.invert, .dly s.unit] ++
         [Event.lvl s.pin (!s.invert), .dly (3 * s.unit), .lvl s.pin s.invert, .dly s.unit] ++
         [Event.lvl s.pin (!s.invert), .dly (3 * s.unit), .lvl s.pin s.invert, .dly s.unit] ++
         [Event.dly (2 * s.unit)])))

/-- R74: a lowercase code and the code 32 below it are sent alike, from every state. -/
def Obligations.CaseLaw : Prop :=
  ∀ (s : State) (c : Byte), (97 ≤ c ∧ c ≤ 122) ∨ 224 ≤ c →
    exec (decodeChar c) s = exec (decodeChar (c - 32)) s ∧ exec (.sendChar c) s = exec (.sendChar (c - 32)) s

/-- R75: over all codes but the space and the delimiters the index before the clamp takes exactly the values the rule
lists, class by class, and after it is in 0..69 and never 27 or 29. -/
def Obligations.ReachableIndices : Prop :=
  let raw := fun c : Byte => (rawIndex (normalise c) (accentOffset (normalise c))).toNat
  let bases := [160, 168, 172, 176, 178, 185, 187]
  (∀ n : Nat, (∃ c, mnemonic (decodeChar c) ∈ ["CTRL", "SYM", "LOW"] ∧ raw c = n) ↔
    n ≤ 26 ∨ n = 28 ∨ (30 ≤ n ∧ n ≤ 63)) ∧
  (∀ n : Nat, (∃ c, mnemonic (decodeChar c) ∈ ["ACC", "ACCL"] ∧ raw c = n) ↔ 64 ≤ n ∧ n ≤ 69) ∧
  (∀ n : Nat, (∃ c, mnemonic (decodeChar c) = "OOR" ∧ raw c = n) ↔ 90 ≤ n ∧ n ≤ 190 ∧ n ∉ bases) ∧
  (∀ n : Nat, (∃ c, mnemonic (decodeChar c) = "OORF" ∧ raw c = n) ↔ 159 ≤ n ∧ n ≤ 190 ∧ n ∉ bases) ∧
  ∀ c : Byte, c ≠ 32 → c ≠ 60 → c ≠ 62 →
    (raw c < 70 ∨ 89 < raw c) ∧ (indexOf c).toNat ≤ 69 ∧ indexOf c ≠ 27 ∧ indexOf c ≠ 29

/-- The frame of the ten character classes: no configuration register, no byte of the table, no input changes; the flag
changes only at a delimiter; `SP` moves only inside a sequence and `rsp` grows only outside one; the space and the
delimiters touch neither the output nor the look-up registers. -/
def Obligations.CharacterFrame : Prop :=
  ∀ (i : Instr) (s t : State), isChar i = true → exec i s = .next t →
    SameConfig s t ∧ SameInputs s t ∧ t.inseq = s.inseq ∧
    (i ≠ .proOpen → i ≠ .proClose → t.prosign = s.prosign) ∧
    (s.inseq = true → t.rsp = s.rsp) ∧ (s.inseq = false → t.sp = s.sp) ∧
    (i = .sp ∨ i = .proOpen ∨ i = .proClose →
      t.key = s.key ∧ t.toneOn = s.toneOn ∧ t.idx = s.idx ∧ t.offr = s.offr ∧ t.v = s.v) ∧
    (i = .proOpen ∨ i = .proClose → t.trace = s.trace)

/-! ## Commands (41_construct.md, 44_timing_fsm.md) -/

/-- R80, with R82 to R85 and R88: what `CONSTRUCT3` writes, its two events, and what it leaves alone. The
order of the two events is the spec's decision D14 (R85), log 16. -/
def Obligations.ConstructThreeEffect : Prop :=
  ∀ (s : State) (pin : PinId) (speed : Wpm) (invert : Bool), s.phase = .idle →
    ∃ t, exec (.construct3 pin speed invert) s = .next t ∧
      t.pin = pin ∧ t.invert = invert ∧ t.speed = speed ∧ t.eff = (if speed ≤ 0 then 1 else speed) ∧
      t.unit = 1200 / t.eff ∧ t.dash = 3 * t.unit ∧ t.toneEn = false ∧ t.prosign = false ∧ t.key = invert ∧
      t.toneOn = false ∧ t.constructed = true ∧ t.inseq = false ∧ t.phase = .idle ∧
      t.trace = s.trace ++ [.cfg pin, .lvl pin invert] ∧
      t.rsp = s.rsp ∧ t.stream = s.stream ∧ t.host = s.host ∧ t.rst = s.rst ∧
      ∀ a, Memory.read t.table a = Memory.read s.table a

/-- R81: `CONSTRUCT5` is the same with the tone registers written; it issues no tone event. The order
of the two events is D14 and the missing tone event D21, logs 16 and 25. -/
def Obligations.ConstructFiveEffect : Prop :=
  ∀ (s : State) (pin : PinId) (speed : Wpm) (ch : ToneId) (freq : Hz) (invert : Bool), s.phase = .idle →
    ∃ t, exec (.construct5 pin speed ch freq invert) s = .next t ∧
      t.pin = pin ∧ t.invert = invert ∧ t.speed = speed ∧ t.eff = (if speed ≤ 0 then 1 else speed) ∧
      t.unit = 1200 / t.eff ∧ t.dash = 3 * t.unit ∧ t.toneEn = true ∧ t.toneCh = ch ∧ t.toneFreq = freq ∧
      t.prosign = false ∧ t.key = invert ∧ t.toneOn = false ∧ t.constructed = true ∧ t.inseq = false ∧
      t.phase = .idle ∧ t.trace = s.trace ++ [.cfg pin, .lvl pin invert] ∧
      t.rsp = s.rsp ∧ t.stream = s.stream ∧ t.host = s.host ∧ t.rst = s.rst ∧
      ∀ a, Memory.read t.table a = Memory.read s.table a

/-- R82 to R84: a speed of 0 or below counts as 1, any other counts as it is given, and the unit and the dash are always
positive; so the effective speed is computed, and so both constructions write the registers. That negative speeds and
both forms fall back is the spec's decision D11, log 18. -/
def Obligations.SpeedFallback : Prop :=
  (∀ (s : State) (pin : PinId) (speed : Wpm) (ch : ToneId) (freq : Hz) (invert : Bool), s.phase = .idle →
    ∃ t u, exec (.construct3 pin speed invert) s = .next t ∧ exec (.construct5 pin speed ch freq invert) s = .next u ∧
      (speed ≤ 0 → t.eff = 1 ∧ t.unit = 1200 ∧ t.dash = 3600 ∧ u.eff = 1 ∧ u.unit = 1200 ∧ u.dash = 3600) ∧
      (0 < speed → t.eff = speed ∧ t.unit = 1200 / speed ∧ u.eff = speed ∧ u.unit = 1200 / speed) ∧
      0 < t.unit ∧ t.dash = 3 * t.unit ∧ 0 < t.dash ∧ u.unit = t.unit ∧ u.dash = t.dash) ∧
  (∀ speed : Wpm, speed ≤ 0 → effective speed = 1 ∧ unitOf (effective speed) = 1200) ∧
  (∀ speed : Wpm, 0 < speed → effective speed = speed) ∧
  ∀ speed : Wpm, 0 < unitOf (effective speed) ∧ 0 < dashOf (unitOf (effective speed))

/-- R110: a taken `SEND_CHAR` does exactly what the class of its character does (R47), with `INSEQ` 0. -/
def Obligations.SendCharRunsTheClass : Prop :=
  ∀ (s : State) (c : Byte), s.phase = .idle → s.constructed = true →
    exec (.sendChar c) s = exec (decodeChar c) { s with inseq := false }

/-- R123, R124: a taken `SEND_CHAR` always ends, after at most 7 pulses and one further delay, back in `IDLE`, with the code
of the class delivered on `rsp`. A look-up character keys the elements of its entry and then its letter gap (R121, R122),
the space delays 7 units, a delimiter issues nothing (R111 to R113). -/
def Obligations.SendCharCompletes : Prop :=
  ∀ (s : State) (c : Byte), s.phase = .idle → s.constructed = true → NoZero s.table →
    ∃ t es gap, exec (.sendChar c) s = .next t ∧ t.phase = .idle ∧ t.inseq = false ∧
      t.ret = classReturn (decodeChar c) ∧ t.rsp = s.rsp ++ [classReturn (decodeChar c)] ∧
      t.trace = s.trace ++ keyEvents s es ++ gap ∧ es.length ≤ 7 ∧
      (gap = [] ∨ gap = [.dly (2 * s.unit)] ∨ gap = [.dly (7 * s.unit)]) ∧
      (c = 32 → es = [] ∧ gap = [.dly (7 * s.unit)]) ∧ (c = 60 ∨ c = 62 → es = [] ∧ gap = []) ∧
      (c ≠ 32 → c ≠ 60 → c ≠ 62 → es = unpack (symbolOf s c) ∧ gap = gapEvents s)

/-- R141: the returned code is 35 exactly for `CTRL`, `OOR`, `OORF` and an explicit `#`. -/
def Obligations.PlaceholderReportsTheAnomaly : Prop :=
  ∀ (s : State) (c : Byte), s.phase = .idle → s.constructed = true → NoZero s.table →
    ∃ t, exec (.sendChar c) s = .next t ∧
      (t.rsp = s.rsp ++ [35] ↔
        mnemonic (decodeChar c) = "CTRL" ∨ mnemonic (decodeChar c) = "OOR" ∨ mnemonic (decodeChar c) = "OORF" ∨ c = 35)

/-- R89, R128, R162: a construction presented in another phase than `IDLE`, and a send presented there or before
construction, is not taken. That an instruction not taken is a step that changes nothing is the model's reading, log 9. -/
def Obligations.CommandsAreHeld : Prop :=
  ∀ s : State,
    (s.phase ≠ .idle → ∀ pin speed ch freq invert,
      exec (.construct3 pin speed invert) s = .next s ∧ exec (.construct5 pin speed ch freq invert) s = .next s) ∧
    (s.phase ≠ .idle ∨ s.constructed = false → ∀ c bs,
      exec (.sendChar c) s = .next s ∧ exec (.sendSeq bs) s = .next s)

/-- R162: with a send command presented before construction the core stays as it is, the command still presented; that
this is a step that changes nothing, and not the lack of one, is log 9. -/
def Obligations.SendBeforeConstructionWaits : Prop :=
  ∀ (s : State) (k : CommandWord) (rest : List CommandWord), s.rst = false → s.phase = .idle → s.constructed = false →
    s.host = k :: rest → (k.op = 2 ∨ k.op = 3) → step s = .next s ∧ ∀ n, core.run n s = .next s

/-- R125: a taken `SEND_SEQ` ends at the first 0: back in `IDLE`, `SP` at the terminator, nothing on `rsp`, and trace,
flag and output as if each byte before it had been sent by a `SEND_CHAR` of its own, in order; bytes behind it are not
looked at. -/
def Obligations.SendSeqIsTheCharactersInOrder : Prop :=
  ∀ (s : State) (bs rest : List Byte), s.phase = .idle → s.constructed = true → NoZero s.table → 0 ∉ bs →
    ∃ t u, exec (.sendSeq (bs ++ 0 :: rest)) s = .next t ∧ sendAll bs s = .next u ∧
      t.phase = .idle ∧ t.inseq = false ∧ t.sp = bs.length ∧ t.rsp = s.rsp ∧
      t.trace = u.trace ∧ t.prosign = u.prosign ∧ t.key = u.key ∧ t.toneOn = u.toneOn ∧ SameConfig s t

/-- R130: after a string the flag is what it was, complemented once per delimiter, whichever delimiter. -/
def Obligations.ProsignCountsDelimiters : Prop :=
  ∀ (s : State) (bs rest : List Byte), s.phase = .idle → s.constructed = true → NoZero s.table → 0 ∉ bs →
    ∃ t, exec (.sendSeq (bs ++ 0 :: rest)) s = .next t ∧ t.prosign = (s.prosign ^^ decide (delimiters bs % 2 = 1))

/-- R126: `END` is the byte 0 at `SP`; it ends the sequence: no event, no flag, no returned byte, nothing sent for it.
That the terminator is 0 is the spec's decision D7, log 22. -/
def Obligations.EndReturnsToIdle : Prop :=
  ∀ s : State,
    exec .endSeq s = .next { s with phase := .idle, inseq := false } ∧
    (s.rst = false → s.phase = .fetch → s.stream[s.sp]? = some 0 →
      step s = .next { s with phase := .idle, inseq := false })

/-- R170: a stream that never presents the terminator keeps the core busy for ever: every byte given is sent, in order
and as by a `SEND_CHAR` of its own, then the core waits in `FETCH`. U9 would refuse such
an operand; the model follows R170, log 11. -/
def Obligations.UnterminatedStreamKeepsTheCoreBusy : Prop :=
  ∀ (s : State) (bs : List Byte), s.phase = .idle → s.constructed = true → s.rst = false → NoZero s.table → 0 ∉ bs →
    ∃ t u, exec (.sendSeq bs) s = .next t ∧ sendAll bs s = .next u ∧ t.trace = u.trace ∧ t.prosign = u.prosign ∧
      t.key = u.key ∧ t.toneOn = u.toneOn ∧ t.rsp = s.rsp ∧
      t.phase = .fetch ∧ t.inseq = true ∧ t.sp = bs.length ∧ ∀ n, core.run n t = .next t

/-- R125, R5: the bytes behind the first 0 are never read, so two streams that differ only there are one observation, in
every state and for every table; where the command is not accepted both change nothing, by log 9, and where an entry is 0
both are left in `TEST`, by log 10. What counts as one observation is the spec's decision D3, log 24. -/
def Obligations.BytesBehindTheEndAreNotObserved : Prop :=
  ∀ (s : State) (bs rest other : List Byte),
    ∃ t u, exec (.sendSeq (bs ++ 0 :: rest)) s = .next t ∧ exec (.sendSeq (bs ++ 0 :: other)) s = .next u ∧
      sameObservation t u

/-! ## Steps, phases, runs -/

/-- The instruction at the fetch point is run whole. In `IDLE` it is the presented command; an accepted one is taken from the
host, and one that is not accepted is a step that changes nothing (for a send before construction R162 has no step at all:
that it is this one is the model's reading, log 9). In `FETCH` it is the next byte of the stream; in `CLASSIFY` the latched
character; in `TEST` the element at bit 0 of `V`, which is then shifted out. Everywhere else the step is one row of R127.
That a step runs a whole instruction is the model's choice, log 1. -/
def Obligations.StepRunsTheDecodedInstruction : Prop :=
  ∀ s : State, s.rst = false →
    (∀ i, fetch s = some i → s.phase ≠ .test → step s = exec i (take i s)) ∧
    (∀ k rest, s.phase = .idle → s.host = k :: rest → accepts (decodeCommand k) s = true →
      step s = exec (decodeCommand k) { s with host := rest }) ∧
    (∀ k rest, s.phase = .idle → s.host = k :: rest → accepts (decodeCommand k) s = false → step s = .next s) ∧
    (∀ b, s.phase = .fetch → s.stream[s.sp]? = some b → step s = exec (decodeStreamByte b) s) ∧
    (s.phase = .classify → step s = exec (decodeChar s.c) s) ∧
    (s.phase = .test → s.v ≠ 1 →
      ∃ t, exec (if s.v.getLsbD 0 then .dash else .dot) s = .next t ∧ step s = .next { t with v := t.v >>> 1 }) ∧
    (fetch s = none → step s = phaseStep s)

/-- R127: the phase machine, started at `CLASSIFY` on a latched character, reaches the state of the big-step rule. That an
instruction is one whole step is the model's choice, log 1. -/
def Obligations.PhasesReachTheBigStepCharacter : Prop :=
  ∀ (s : State) (c : Byte), NoZero s.table →
    ∃ n, phaseRun n { s with c := c, phase := .classify } = exec (decodeChar c) s

/-- R127: from `IDLE` with an accepted command presented, the phase machine reaches the state that one step gives.
That one step is the whole command is the model's choice, log 1. -/
def Obligations.PhasesReachTheBigStepCommand : Prop :=
  ∀ (s : State) (k : CommandWord) (rest : List CommandWord), s.rst = false → s.phase = .idle → NoZero s.table →
    s.host = k :: rest → accepts (decodeCommand k) s = true → wellFormed (decodeCommand k) = true →
    ∃ n, phaseRun (n + 1) s = step s

/-- R125, R126: stepping a stream byte by byte from `FETCH` gives the state of the whole `SEND_SEQ`. That one step is one
byte is the model's choice, log 1. -/
def Obligations.SteppingTheStreamIsSendSeq : Prop :=
  ∀ (s : State) (bs rest : List Byte), s.rst = false → s.phase = .idle → s.constructed = true → NoZero s.table → 0 ∉ bs →
    core.run (bs.length + 1) { s with inseq := true, sp := 0, stream := bs ++ 0 :: rest, phase := .fetch } =
      exec (.sendSeq (bs ++ 0 :: rest)) s

/-! ## Invariants and whole-machine rules -/

/-- The invariant holds at reset. It rests on the model's values for what R160 leaves unspecified only where `CONSTRUCTED` is
1, which it is not, and on the table of log 3 for its canonical form. -/
def Obligations.ResetInvariant : Prop := Inv State.reset

/-- Every step keeps the invariant: canonical table, timing derived from the speed, output level and tone as the phase
says (R23, R96), nothing running before construction, `INSEQ` as the phase says, index in range. -/
def Obligations.StepKeepsInvariant : Prop :=
  ∀ s t : State, Inv s → step s = .next t → Inv t

/-- Every row of the phase table, and a reset between two rows, keeps the invariant too, also inside a character, where the
output is active and the tone sounds exactly as the phase says (R23, R95, R96, R127). -/
def Obligations.SmallStepKeepsInvariant : Prop :=
  ∀ s t : State, Inv s → smallStep s = .next t → Inv t

/-- R52, R124, R140: no instruction ever stops, in any state, on any operand. For three cases the next state is the model's
choice: a command that is not accepted, for which R162 has no step, changes nothing (log 9); an entry 0, for which the
loop has no end, leaves the core in `TEST` (log 10); a stream without a terminator, which U9 would refuse, leaves it in
`FETCH` (log 11). -/
def Obligations.EveryInstructionAnswersANextState : Prop :=
  ∀ (i : Instr) (s : State), ∃ t, exec i s = .next t

/-- R140, R144, R39: under the invariant no step and no run ever stops. That a run goes on rests on the model's choice where
a send is presented before construction, for which R162 has no step (log 9), where an entry is 0 (log 10), and where a
stream has no terminator, which U9 would refuse (log 11). -/
def Obligations.NoRunEverStops : Prop :=
  ∀ (s : State) (n : Nat), Inv s → ∃ t, core.run n s = .next t ∧ Inv t

/-- R96, R23: under the invariant, whenever a run is back in `IDLE` with a constructed core the output is idle and the tone
is off. -/
def Obligations.QuietBetweenCommands : Prop :=
  ∀ (s t : State) (n : Nat), Inv s → core.run n s = .next t → t.phase = .idle → t.constructed = true →
    t.key = t.invert ∧ t.toneOn = false

/-- R11 to R15, R146: only a construction writes a configuration register; every other instruction also leaves the table,
the presented commands and the reset line alone, and only `SEND_SEQ` sets the stream. -/
def Obligations.OnlyConstructionConfigures : Prop :=
  ∀ (i : Instr) (s t : State), isConstruct i = false → exec i s = .next t →
    SameConfig s t ∧ (∀ a, Memory.read t.table a = Memory.read s.table a) ∧ t.host = s.host ∧ t.rst = s.rst ∧
    t.free = s.free ∧ ((∀ bs, i ≠ .sendSeq bs) → t.stream = s.stream)

/-- R30, R36: no step writes the table. -/
def Obligations.TableNeverChanges : Prop :=
  ∀ s t : State, step s = .next t → t.table = s.table

/-- R37, R40: a step adds events behind those already issued and takes none back; the same of the returned bytes.
That a hardware reset keeps both is the model's choice (R160 calls the trace empty then), log 8. -/
def Obligations.TraceOnlyGrows : Prop :=
  ∀ s t : State, step s = .next t → s.trace <+: t.trace ∧ s.rsp <+: t.rsp

/-- R23: a step leaves in `KEY` the level of its last `LVL`, and a step without a `CFG`, which is one that constructs
nothing, leaves in `TONE_ON` whether a `TON` or a `TOF` came last; without such an event they keep what they held. That a
hardware reset keeps the trace and both registers is the model's reading of R160 and R161, log 8. -/
def Obligations.OutputRegistersFollowTheTrace : Prop :=
  ∀ s t : State, step s = .next t →
    ∃ evs, t.trace = s.trace ++ evs ∧ t.key = evs.foldl keyAfter s.key ∧
      ((∀ p, Event.cfg p ∉ evs) → t.toneOn = evs.foldl toneAfter s.toneOn)

/-- R127: a row of the phase table issues one event or none; only a construction, taken in `IDLE`, issues two. -/
def Obligations.PhasesIssueOneEventAtMost : Prop :=
  ∀ s t : State, phaseStep s = .next t →
    t.trace = s.trace ∨ (∃ e, t.trace = s.trace ++ [e]) ∨
    (s.phase = .idle ∧ ∃ p l, t.trace = s.trace ++ [.cfg p, .lvl p l])

/-- R90, R147: the delays a step requests are positive and are `U`, `2·U`, `3·U` or `7·U`. That a hardware reset keeps the
trace is the model's choice, log 8. -/
def Obligations.DelaysRequested : Prop :=
  ∀ s t : State, Inv s → step s = .next t →
    ∃ evs, t.trace = s.trace ++ evs ∧
      ∀ d, Event.dly d ∈ evs → 0 < d ∧ (d = s.unit ∨ d = 2 * s.unit ∨ d = 3 * s.unit ∨ d = 7 * s.unit)

/-- R129: the time of a character: `2d + 4h + 2` units for a look-up character with `d` dots and `h` dashes outside
prosign mode and `2d + 4h` inside, 7 for the space, 0 for a delimiter. -/
def Obligations.CharacterDuration : Prop :=
  ∀ (s t : State) (c : Byte), s.dash = 3 * s.unit → exec (decodeChar c) s = .next t →
    (c = 32 → totalTime t.trace = totalTime s.trace + 7 * s.unit) ∧
    (c = 60 ∨ c = 62 → totalTime t.trace = totalTime s.trace) ∧
    (c ≠ 32 → c ≠ 60 → c ≠ 62 → symbolOf s c ≠ 0 →
      totalTime t.trace = totalTime s.trace +
        (2 * ((unpack (symbolOf s c)).count false : Rat) + 4 * ((unpack (symbolOf s c)).count true : Rat) +
          (if s.prosign then 0 else 2)) * s.unit)

/-- R5, R6: merging adjacent delays keeps the total time, merges no further the second time, leaves no two delays in a row,
keeps every other event in order, takes two delays in a row for one of their sum, wherever they stand, and leaves a trace
without two delays in a row as it is. What counts as one observation is the spec's decision D3, log 24. -/
def Obligations.MergedTraceKeepsTime : Prop :=
  ∀ tr : List Event, totalTime (mergeDelays tr) = totalTime tr ∧ mergeDelays (mergeDelays tr) = mergeDelays tr ∧
    (∀ pre post d e, mergeDelays tr ≠ pre ++ Event.dly d :: Event.dly e :: post) ∧
    (mergeDelays tr).filter notDelay = tr.filter notDelay ∧
    (∀ pre post d e, tr = pre ++ Event.dly d :: Event.dly e :: post →
      mergeDelays tr = mergeDelays (pre ++ Event.dly (d + e) :: post)) ∧
    ((∀ pre post d e, tr ≠ pre ++ Event.dly d :: Event.dly e :: post) → mergeDelays tr = tr)

/-- The values R15, R22, R21, R16 and R160 give for a hardware reset. -/
def Obligations.ResetValues : Prop :=
  State.reset.constructed = false ∧ State.reset.phase = .idle ∧ State.reset.inseq = false ∧
  State.reset.prosign = false ∧ State.reset.trace = []

/-- R161: a hardware reset in any phase abandons the command: no event, the registers as R160's first column gives them; the
platform is not touched, so the output and the tone stay as they were (that they stay, and that the
trace is kept, is the model's reading of R161, log 8). -/
def Obligations.HardwareResetAbandonsTheCommand : Prop :=
  ∀ s : State, s.rst = true → ∃ t, step s = .next t ∧ t.constructed = false ∧ t.phase = .idle ∧ t.inseq = false ∧
    t.prosign = false ∧ t.rst = false ∧ t.trace = s.trace ∧ t.key = s.key ∧ t.toneOn = s.toneOn

/-- R149, R151: a step of one core leaves every other core as it was, and all keep reading one table. Running cores one
step or one row of R127 at a time is log 28. -/
def Obligations.CoresAreIndependent : Prop :=
  ∀ (k : Nat) (cores after : List State) (table : List Host.Cell),
    stepInstance k cores = .next after ∨ phaseInstance k cores = .next after →
    after.length = cores.length ∧ (∀ j, j ≠ k → after[j]? = cores[j]?) ∧
    (shareTable cores table → shareTable after table)

/-- R150, U5: a step of a core that starts or goes on with a command on a tone channel, while a command of another core with
that channel runs, is refused, step by step and row by row; otherwise the core makes its own step. The channel is the
core's own, or the operand of the `CONSTRUCT5` it takes; a core without a tone has none. Which steps count as an overlap is
the model's reading, log 28. -/
def Obligations.OverlappedToneIsRefused : Prop :=
  ∀ (k : Nat) (cores : List State) (s : State), cores[k]? = some s → s.rst = false →
    let shared := fun ch : ToneId =>
      ∃ j u, j ≠ k ∧ cores[j]? = some u ∧ u.phase ≠ .idle ∧ u.toneEn = true ∧ u.toneCh = ch
    (s.phase ≠ .idle → s.toneEn = true → nextTone s = some s.toneCh) ∧
    (∀ w rest, s.phase = .idle → s.host = w :: rest → s.constructed = true → s.toneEn = true → (w.op = 2 ∨ w.op = 3) →
      nextTone s = some s.toneCh) ∧
    (∀ w rest, s.phase = .idle → s.host = w :: rest → w.op = 1 → nextTone s = some w.toneCh) ∧
    (∀ w rest, s.phase = .idle → s.host = w :: rest → w.op = 0 → nextTone s = none) ∧
    (s.phase = .idle → s.host = [] → nextTone s = none) ∧
    (∀ w rest, s.phase = .idle → s.host = w :: rest → s.constructed = false → (w.op = 2 ∨ w.op = 3) →
      nextTone s = none) ∧
    (s.toneEn = false → (s.phase = .idle → ∀ w, s.host.head? = some w → w.op ≠ 1) → nextTone s = none) ∧
    (∀ ch, nextTone s = some ch → shared ch →
      stepInstance k cores = .refused .toneShared ∧ phaseInstance k cores = .refused .toneShared) ∧
    ((∀ ch, nextTone s = some ch → ¬ shared ch) →
      (∀ t, step s = .next t → stepInstance k cores = .next (cores.set k t)) ∧
      ∀ t, phaseStep s = .next t → phaseInstance k cores = .next (cores.set k t))

/-- The reference table of R70 meets the constraints of R69. It rests on log 3: the table is the model's own. -/
def Obligations.ReferenceTableIsAdmissible : Prop :=
  Admissible State.reset.table ∧ Memory.wf State.reset.table

end Statements
end

