-- ==== Sys2Proof/Laws/Memory.lean ====
section
/-!
SUPPORT. The laws of the table: a read after a write, the frame of a write, and the canonical form, which every memory
operation keeps. The machine itself has the read only (20_memory.md R30).
-/
namespace Sys2Proof.Machine.Memory

theorem read_inside {t : List Host.Cell} {i : Nat} (h : i < 70) : read t i = some (byteAt t i) := by
  simp [read, tableLen, h]

theorem read_outside {t : List Host.Cell} {i : Nat} (h : 70 ≤ i) : read t i = none := by
  simp [read, tableLen, Nat.not_lt.mpr h]

theorem byteAt_of_all_gt {t : List Host.Cell} {i : Nat} (h : ∀ x ∈ t, i < x.1) : byteAt t i = unlisted i := by
  induction t with
  | nil => rfl
  | cons x rest ih =>
    have hx : x.1 ≠ i := Nat.ne_of_gt (h x List.mem_cons_self)
    simp [byteAt, hx, ih fun y hy => h y (List.mem_cons_of_mem _ hy)]

/-- A read after a write to the same index, in a canonical table. -/
theorem byteAt_put_same {t : List Host.Cell} (ht : wf t) (i : Nat) (b : Byte) : byteAt (put t i b) i = b := by
  induction t with
  | nil => by_cases h : b = unlisted i <;> simp [put, h, byteAt]
  | cons x rest ih =>
    obtain ⟨a, y⟩ := x
    obtain ⟨hs, hv⟩ := ht
    rw [List.pairwise_cons] at hs
    have hrest : wf rest := ⟨hs.2, fun z hz => hv z (List.mem_cons_of_mem _ hz)⟩
    by_cases h1 : i < a
    · by_cases h2 : b = unlisted i
      · have hlt : ∀ z ∈ (a, y) :: rest, i < z.1 := by
          intro z hz
          rcases List.mem_cons.mp hz with rfl | hz
          · exact h1
          · exact Nat.lt_trans h1 (hs.1 z hz)
        simpa [put, h1, h2] using byteAt_of_all_gt hlt
      · simp [put, h1, h2, byteAt]
    · by_cases h3 : i = a
      · subst h3
        by_cases h2 : b = unlisted i
        · simpa [put, h2] using byteAt_of_all_gt hs.1
        · simp [put, h2, byteAt]
      · simp [put, h1, h3, byteAt, Ne.symm h3, ih hrest]

/-- A write leaves every other index alone. -/
theorem byteAt_put_other (t : List Host.Cell) {i j : Nat} (b : Byte) (h : j ≠ i) :
    byteAt (put t i b) j = byteAt t j := by
  induction t with
  | nil => by_cases h2 : b = unlisted i <;> simp [put, h2, byteAt, Ne.symm h]
  | cons x rest ih =>
    obtain ⟨a, y⟩ := x
    by_cases h1 : i < a
    · by_cases h2 : b = unlisted i <;> simp [put, h1, h2, byteAt, Ne.symm h]
    · by_cases h3 : i = a
      · subst h3
        by_cases h2 : b = unlisted i <;> simp [put, h2, byteAt, Ne.symm h]
      · simp only [put, h1, h3, if_false, byteAt, ih]

theorem mem_put {t : List Host.Cell} {i : Nat} {b : Byte} {x : Host.Cell} (h : x ∈ put t i b) :
    x = (i, b) ∧ b ≠ unlisted i ∨ x ∈ t := by
  induction t with
  | nil =>
    by_cases h2 : b = unlisted i <;> simp_all [put]
  | cons y rest ih =>
    obtain ⟨a, z⟩ := y
    simp only [put] at h
    split at h
    · split at h
      · exact .inr h
      · next h2 => exact (List.mem_cons.mp h).imp (fun e => ⟨e, h2⟩) id
    · split at h
      · split at h
        · exact .inr (List.mem_cons_of_mem _ h)
        · next h2 => exact (List.mem_cons.mp h).imp (fun e => ⟨e, h2⟩) (List.mem_cons_of_mem _)
      · rcases List.mem_cons.mp h with rfl | h
        · exact .inr List.mem_cons_self
        · exact (ih h).imp id (List.mem_cons_of_mem _)

/-- A write inside the table keeps the canonical form. -/
theorem put_wf {t : List Host.Cell} (ht : wf t) {i : Nat} (hi : i < tableLen) (b : Byte) : wf (put t i b) := by
  refine ⟨?_, fun x hx => ?_⟩
  · obtain ⟨hs, -⟩ := ht
    induction t with
    | nil => by_cases h2 : b = unlisted i <;> simp [put, h2]
    | cons y rest ih =>
      obtain ⟨a, z⟩ := y
      rw [List.pairwise_cons] at hs
      simp only [put]
      split
      · next h1 =>
        split
        · exact List.pairwise_cons.mpr hs
        · refine List.pairwise_cons.mpr ⟨fun x hx => ?_, List.pairwise_cons.mpr hs⟩
          rcases List.mem_cons.mp hx with rfl | hx
          · exact h1
          · exact Nat.lt_trans h1 (hs.1 x hx)
      · next h1 =>
        split
        · next h3 =>
          subst h3
          split
          · exact hs.2
          · exact List.pairwise_cons.mpr ⟨hs.1, hs.2⟩
        · next h3 =>
          refine List.pairwise_cons.mpr ⟨fun x hx => ?_, ih hs.2⟩
          rcases mem_put hx with ⟨rfl, -⟩ | hx
          · show a < i
            omega
          · exact hs.1 x hx
  · rcases mem_put hx with ⟨rfl, hb⟩ | hx
    · exact ⟨hi, hb⟩
    · exact ht.2 x hx

theorem reset_wf : wf State.reset.table := ⟨List.Pairwise.nil, fun _ h => absurd h (by simp [State.reset])⟩

end Sys2Proof.Machine.Memory
end

