-- ==== Sys2Proof/Laws/State.lean ====
section
/-!
SUPPORT. One lemma per field for each of the plain updates of Machine/Ops.lean and Machine/Flags.lean, so that no later
proof unfolds a record update.
-/
namespace Sys2Proof.Machine

/-! ### `emit` -/

@[simp] theorem emit_pin (e : Event) (s : State) : (emit e s).pin = s.pin := rfl
@[simp] theorem emit_invert (e : Event) (s : State) : (emit e s).invert = s.invert := rfl
@[simp] theorem emit_speed (e : Event) (s : State) : (emit e s).speed = s.speed := rfl
@[simp] theorem emit_eff (e : Event) (s : State) : (emit e s).eff = s.eff := rfl
@[simp] theorem emit_unit (e : Event) (s : State) : (emit e s).unit = s.unit := rfl
@[simp] theorem emit_dash (e : Event) (s : State) : (emit e s).dash = s.dash := rfl
@[simp] theorem emit_toneEn (e : Event) (s : State) : (emit e s).toneEn = s.toneEn := rfl
@[simp] theorem emit_toneCh (e : Event) (s : State) : (emit e s).toneCh = s.toneCh := rfl
@[simp] theorem emit_toneFreq (e : Event) (s : State) : (emit e s).toneFreq = s.toneFreq := rfl
@[simp] theorem emit_constructed (e : Event) (s : State) : (emit e s).constructed = s.constructed := rfl
@[simp] theorem emit_prosign (e : Event) (s : State) : (emit e s).prosign = s.prosign := rfl
@[simp] theorem emit_c (e : Event) (s : State) : (emit e s).c = s.c := rfl
@[simp] theorem emit_offr (e : Event) (s : State) : (emit e s).offr = s.offr := rfl
@[simp] theorem emit_idx (e : Event) (s : State) : (emit e s).idx = s.idx := rfl
@[simp] theorem emit_v (e : Event) (s : State) : (emit e s).v = s.v := rfl
@[simp] theorem emit_ret (e : Event) (s : State) : (emit e s).ret = s.ret := rfl
@[simp] theorem emit_sp (e : Event) (s : State) : (emit e s).sp = s.sp := rfl
@[simp] theorem emit_inseq (e : Event) (s : State) : (emit e s).inseq = s.inseq := rfl
@[simp] theorem emit_phase (e : Event) (s : State) : (emit e s).phase = s.phase := rfl
@[simp] theorem emit_key (e : Event) (s : State) : (emit e s).key = s.key := rfl
@[simp] theorem emit_toneOn (e : Event) (s : State) : (emit e s).toneOn = s.toneOn := rfl
@[simp] theorem emit_table (e : Event) (s : State) : (emit e s).table = s.table := rfl
@[simp] theorem emit_stream (e : Event) (s : State) : (emit e s).stream = s.stream := rfl
@[simp] theorem emit_host (e : Event) (s : State) : (emit e s).host = s.host := rfl
@[simp] theorem emit_rst (e : Event) (s : State) : (emit e s).rst = s.rst := rfl
@[simp] theorem emit_trace (e : Event) (s : State) : (emit e s).trace = s.trace ++ [e] := rfl
@[simp] theorem emit_rsp (e : Event) (s : State) : (emit e s).rsp = s.rsp := rfl
@[simp] theorem emit_free (e : Event) (s : State) : (emit e s).free = s.free := rfl

/-! ### `driveLevel` -/

@[simp] theorem driveLevel_pin (l : Bool) (s : State) : (driveLevel l s).pin = s.pin := rfl
@[simp] theorem driveLevel_invert (l : Bool) (s : State) : (driveLevel l s).invert = s.invert := rfl
@[simp] theorem driveLevel_speed (l : Bool) (s : State) : (driveLevel l s).speed = s.speed := rfl
@[simp] theorem driveLevel_eff (l : Bool) (s : State) : (driveLevel l s).eff = s.eff := rfl
@[simp] theorem driveLevel_unit (l : Bool) (s : State) : (driveLevel l s).unit = s.unit := rfl
@[simp] theorem driveLevel_dash (l : Bool) (s : State) : (driveLevel l s).dash = s.dash := rfl
@[simp] theorem driveLevel_toneEn (l : Bool) (s : State) : (driveLevel l s).toneEn = s.toneEn := rfl
@[simp] theorem driveLevel_toneCh (l : Bool) (s : State) : (driveLevel l s).toneCh = s.toneCh := rfl
@[simp] theorem driveLevel_toneFreq (l : Bool) (s : State) : (driveLevel l s).toneFreq = s.toneFreq := rfl
@[simp] theorem driveLevel_constructed (l : Bool) (s : State) : (driveLevel l s).constructed = s.constructed := rfl
@[simp] theorem driveLevel_prosign (l : Bool) (s : State) : (driveLevel l s).prosign = s.prosign := rfl
@[simp] theorem driveLevel_c (l : Bool) (s : State) : (driveLevel l s).c = s.c := rfl
@[simp] theorem driveLevel_offr (l : Bool) (s : State) : (driveLevel l s).offr = s.offr := rfl
@[simp] theorem driveLevel_idx (l : Bool) (s : State) : (driveLevel l s).idx = s.idx := rfl
@[simp] theorem driveLevel_v (l : Bool) (s : State) : (driveLevel l s).v = s.v := rfl
@[simp] theorem driveLevel_ret (l : Bool) (s : State) : (driveLevel l s).ret = s.ret := rfl
@[simp] theorem driveLevel_sp (l : Bool) (s : State) : (driveLevel l s).sp = s.sp := rfl
@[simp] theorem driveLevel_inseq (l : Bool) (s : State) : (driveLevel l s).inseq = s.inseq := rfl
@[simp] theorem driveLevel_phase (l : Bool) (s : State) : (driveLevel l s).phase = s.phase := rfl
@[simp] theorem driveLevel_key (l : Bool) (s : State) : (driveLevel l s).key = l := rfl
@[simp] theorem driveLevel_toneOn (l : Bool) (s : State) : (driveLevel l s).toneOn = s.toneOn := rfl
@[simp] theorem driveLevel_table (l : Bool) (s : State) : (driveLevel l s).table = s.table := rfl
@[simp] theorem driveLevel_stream (l : Bool) (s : State) : (driveLevel l s).stream = s.stream := rfl
@[simp] theorem driveLevel_host (l : Bool) (s : State) : (driveLevel l s).host = s.host := rfl
@[simp] theorem driveLevel_rst (l : Bool) (s : State) : (driveLevel l s).rst = s.rst := rfl
@[simp] theorem driveLevel_trace (l : Bool) (s : State) : (driveLevel l s).trace = s.trace ++ [.lvl s.pin l] := rfl
@[simp] theorem driveLevel_rsp (l : Bool) (s : State) : (driveLevel l s).rsp = s.rsp := rfl
@[simp] theorem driveLevel_free (l : Bool) (s : State) : (driveLevel l s).free = s.free := rfl

/-! ### `delay` -/

@[simp] theorem delay_pin (d : Millis) (s : State) : (delay d s).pin = s.pin := rfl
@[simp] theorem delay_invert (d : Millis) (s : State) : (delay d s).invert = s.invert := rfl
@[simp] theorem delay_speed (d : Millis) (s : State) : (delay d s).speed = s.speed := rfl
@[simp] theorem delay_eff (d : Millis) (s : State) : (delay d s).eff = s.eff := rfl
@[simp] theorem delay_unit (d : Millis) (s : State) : (delay d s).unit = s.unit := rfl
@[simp] theorem delay_dash (d : Millis) (s : State) : (delay d s).dash = s.dash := rfl
@[simp] theorem delay_toneEn (d : Millis) (s : State) : (delay d s).toneEn = s.toneEn := rfl
@[simp] theorem delay_toneCh (d : Millis) (s : State) : (delay d s).toneCh = s.toneCh := rfl
@[simp] theorem delay_toneFreq (d : Millis) (s : State) : (delay d s).toneFreq = s.toneFreq := rfl
@[simp] theorem delay_constructed (d : Millis) (s : State) : (delay d s).constructed = s.constructed := rfl
@[simp] theorem delay_prosign (d : Millis) (s : State) : (delay d s).prosign = s.prosign := rfl
@[simp] theorem delay_c (d : Millis) (s : State) : (delay d s).c = s.c := rfl
@[simp] theorem delay_offr (d : Millis) (s : State) : (delay d s).offr = s.offr := rfl
@[simp] theorem delay_idx (d : Millis) (s : State) : (delay d s).idx = s.idx := rfl
@[simp] theorem delay_v (d : Millis) (s : State) : (delay d s).v = s.v := rfl
@[simp] theorem delay_ret (d : Millis) (s : State) : (delay d s).ret = s.ret := rfl
@[simp] theorem delay_sp (d : Millis) (s : State) : (delay d s).sp = s.sp := rfl
@[simp] theorem delay_inseq (d : Millis) (s : State) : (delay d s).inseq = s.inseq := rfl
@[simp] theorem delay_phase (d : Millis) (s : State) : (delay d s).phase = s.phase := rfl
@[simp] theorem delay_key (d : Millis) (s : State) : (delay d s).key = s.key := rfl
@[simp] theorem delay_toneOn (d : Millis) (s : State) : (delay d s).toneOn = s.toneOn := rfl
@[simp] theorem delay_table (d : Millis) (s : State) : (delay d s).table = s.table := rfl
@[simp] theorem delay_stream (d : Millis) (s : State) : (delay d s).stream = s.stream := rfl
@[simp] theorem delay_host (d : Millis) (s : State) : (delay d s).host = s.host := rfl
@[simp] theorem delay_rst (d : Millis) (s : State) : (delay d s).rst = s.rst := rfl
@[simp] theorem delay_trace (d : Millis) (s : State) : (delay d s).trace = s.trace ++ [.dly d] := rfl
@[simp] theorem delay_rsp (d : Millis) (s : State) : (delay d s).rsp = s.rsp := rfl
@[simp] theorem delay_free (d : Millis) (s : State) : (delay d s).free = s.free := rfl

/-! ### `startTone` -/

@[simp] theorem startTone_pin (s : State) : (startTone s).pin = s.pin := rfl
@[simp] theorem startTone_invert (s : State) : (startTone s).invert = s.invert := rfl
@[simp] theorem startTone_speed (s : State) : (startTone s).speed = s.speed := rfl
@[simp] theorem startTone_eff (s : State) : (startTone s).eff = s.eff := rfl
@[simp] theorem startTone_unit (s : State) : (startTone s).unit = s.unit := rfl
@[simp] theorem startTone_dash (s : State) : (startTone s).dash = s.dash := rfl
@[simp] theorem startTone_toneEn (s : State) : (startTone s).toneEn = s.toneEn := rfl
@[simp] theorem startTone_toneCh (s : State) : (startTone s).toneCh = s.toneCh := rfl
@[simp] theorem startTone_toneFreq (s : State) : (startTone s).toneFreq = s.toneFreq := rfl
@[simp] theorem startTone_constructed (s : State) : (startTone s).constructed = s.constructed := rfl
@[simp] theorem startTone_prosign (s : State) : (startTone s).prosign = s.prosign := rfl
@[simp] theorem startTone_c (s : State) : (startTone s).c = s.c := rfl
@[simp] theorem startTone_offr (s : State) : (startTone s).offr = s.offr := rfl
@[simp] theorem startTone_idx (s : State) : (startTone s).idx = s.idx := rfl
@[simp] theorem startTone_v (s : State) : (startTone s).v = s.v := rfl
@[simp] theorem startTone_ret (s : State) : (startTone s).ret = s.ret := rfl
@[simp] theorem startTone_sp (s : State) : (startTone s).sp = s.sp := rfl
@[simp] theorem startTone_inseq (s : State) : (startTone s).inseq = s.inseq := rfl
@[simp] theorem startTone_phase (s : State) : (startTone s).phase = s.phase := rfl
@[simp] theorem startTone_key (s : State) : (startTone s).key = s.key := rfl
@[simp] theorem startTone_toneOn (s : State) : (startTone s).toneOn = true := rfl
@[simp] theorem startTone_table (s : State) : (startTone s).table = s.table := rfl
@[simp] theorem startTone_stream (s : State) : (startTone s).stream = s.stream := rfl
@[simp] theorem startTone_host (s : State) : (startTone s).host = s.host := rfl
@[simp] theorem startTone_rst (s : State) : (startTone s).rst = s.rst := rfl
@[simp] theorem startTone_trace (s : State) : (startTone s).trace = s.trace ++ [.ton s.toneCh s.toneFreq] := rfl
@[simp] theorem startTone_rsp (s : State) : (startTone s).rsp = s.rsp := rfl
@[simp] theorem startTone_free (s : State) : (startTone s).free = s.free := rfl

/-! ### `stopTone` -/

@[simp] theorem stopTone_pin (s : State) : (stopTone s).pin = s.pin := rfl
@[simp] theorem stopTone_invert (s : State) : (stopTone s).invert = s.invert := rfl
@[simp] theorem stopTone_speed (s : State) : (stopTone s).speed = s.speed := rfl
@[simp] theorem stopTone_eff (s : State) : (stopTone s).eff = s.eff := rfl
@[simp] theorem stopTone_unit (s : State) : (stopTone s).unit = s.unit := rfl
@[simp] theorem stopTone_dash (s : State) : (stopTone s).dash = s.dash := rfl
@[simp] theorem stopTone_toneEn (s : State) : (stopTone s).toneEn = s.toneEn := rfl
@[simp] theorem stopTone_toneCh (s : State) : (stopTone s).toneCh = s.toneCh := rfl
@[simp] theorem stopTone_toneFreq (s : State) : (stopTone s).toneFreq = s.toneFreq := rfl
@[simp] theorem stopTone_constructed (s : State) : (stopTone s).constructed = s.constructed := rfl
@[simp] theorem stopTone_prosign (s : State) : (stopTone s).prosign = s.prosign := rfl
@[simp] theorem stopTone_c (s : State) : (stopTone s).c = s.c := rfl
@[simp] theorem stopTone_offr (s : State) : (stopTone s).offr = s.offr := rfl
@[simp] theorem stopTone_idx (s : State) : (stopTone s).idx = s.idx := rfl
@[simp] theorem stopTone_v (s : State) : (stopTone s).v = s.v := rfl
@[simp] theorem stopTone_ret (s : State) : (stopTone s).ret = s.ret := rfl
@[simp] theorem stopTone_sp (s : State) : (stopTone s).sp = s.sp := rfl
@[simp] theorem stopTone_inseq (s : State) : (stopTone s).inseq = s.inseq := rfl
@[simp] theorem stopTone_phase (s : State) : (stopTone s).phase = s.phase := rfl
@[simp] theorem stopTone_key (s : State) : (stopTone s).key = s.key := rfl
@[simp] theorem stopTone_toneOn (s : State) : (stopTone s).toneOn = false := rfl
@[simp] theorem stopTone_table (s : State) : (stopTone s).table = s.table := rfl
@[simp] theorem stopTone_stream (s : State) : (stopTone s).stream = s.stream := rfl
@[simp] theorem stopTone_host (s : State) : (stopTone s).host = s.host := rfl
@[simp] theorem stopTone_rst (s : State) : (stopTone s).rst = s.rst := rfl
@[simp] theorem stopTone_trace (s : State) : (stopTone s).trace = s.trace ++ [.tof s.toneCh] := rfl
@[simp] theorem stopTone_rsp (s : State) : (stopTone s).rsp = s.rsp := rfl
@[simp] theorem stopTone_free (s : State) : (stopTone s).free = s.free := rfl

/-! ### `togglePro` -/

@[simp] theorem togglePro_pin (s : State) : (togglePro s).pin = s.pin := rfl
@[simp] theorem togglePro_invert (s : State) : (togglePro s).invert = s.invert := rfl
@[simp] theorem togglePro_speed (s : State) : (togglePro s).speed = s.speed := rfl
@[simp] theorem togglePro_eff (s : State) : (togglePro s).eff = s.eff := rfl
@[simp] theorem togglePro_unit (s : State) : (togglePro s).unit = s.unit := rfl
@[simp] theorem togglePro_dash (s : State) : (togglePro s).dash = s.dash := rfl
@[simp] theorem togglePro_toneEn (s : State) : (togglePro s).toneEn = s.toneEn := rfl
@[simp] theorem togglePro_toneCh (s : State) : (togglePro s).toneCh = s.toneCh := rfl
@[simp] theorem togglePro_toneFreq (s : State) : (togglePro s).toneFreq = s.toneFreq := rfl
@[simp] theorem togglePro_constructed (s : State) : (togglePro s).constructed = s.constructed := rfl
@[simp] theorem togglePro_prosign (s : State) : (togglePro s).prosign = !s.prosign := rfl
@[simp] theorem togglePro_c (s : State) : (togglePro s).c = s.c := rfl
@[simp] theorem togglePro_offr (s : State) : (togglePro s).offr = s.offr := rfl
@[simp] theorem togglePro_idx (s : State) : (togglePro s).idx = s.idx := rfl
@[simp] theorem togglePro_v (s : State) : (togglePro s).v = s.v := rfl
@[simp] theorem togglePro_ret (s : State) : (togglePro s).ret = s.ret := rfl
@[simp] theorem togglePro_sp (s : State) : (togglePro s).sp = s.sp := rfl
@[simp] theorem togglePro_inseq (s : State) : (togglePro s).inseq = s.inseq := rfl
@[simp] theorem togglePro_phase (s : State) : (togglePro s).phase = s.phase := rfl
@[simp] theorem togglePro_key (s : State) : (togglePro s).key = s.key := rfl
@[simp] theorem togglePro_toneOn (s : State) : (togglePro s).toneOn = s.toneOn := rfl
@[simp] theorem togglePro_table (s : State) : (togglePro s).table = s.table := rfl
@[simp] theorem togglePro_stream (s : State) : (togglePro s).stream = s.stream := rfl
@[simp] theorem togglePro_host (s : State) : (togglePro s).host = s.host := rfl
@[simp] theorem togglePro_rst (s : State) : (togglePro s).rst = s.rst := rfl
@[simp] theorem togglePro_trace (s : State) : (togglePro s).trace = s.trace := rfl
@[simp] theorem togglePro_rsp (s : State) : (togglePro s).rsp = s.rsp := rfl
@[simp] theorem togglePro_free (s : State) : (togglePro s).free = s.free := rfl

/-! ### `latch` -/

@[simp] theorem latch_pin (x : Byte) (s : State) : (latch x s).pin = s.pin := rfl
@[simp] theorem latch_invert (x : Byte) (s : State) : (latch x s).invert = s.invert := rfl
@[simp] theorem latch_speed (x : Byte) (s : State) : (latch x s).speed = s.speed := rfl
@[simp] theorem latch_eff (x : Byte) (s : State) : (latch x s).eff = s.eff := rfl
@[simp] theorem latch_unit (x : Byte) (s : State) : (latch x s).unit = s.unit := rfl
@[simp] theorem latch_dash (x : Byte) (s : State) : (latch x s).dash = s.dash := rfl
@[simp] theorem latch_toneEn (x : Byte) (s : State) : (latch x s).toneEn = s.toneEn := rfl
@[simp] theorem latch_toneCh (x : Byte) (s : State) : (latch x s).toneCh = s.toneCh := rfl
@[simp] theorem latch_toneFreq (x : Byte) (s : State) : (latch x s).toneFreq = s.toneFreq := rfl
@[simp] theorem latch_constructed (x : Byte) (s : State) : (latch x s).constructed = s.constructed := rfl
@[simp] theorem latch_prosign (x : Byte) (s : State) : (latch x s).prosign = s.prosign := rfl
@[simp] theorem latch_c (x : Byte) (s : State) : (latch x s).c = x := rfl
@[simp] theorem latch_offr (x : Byte) (s : State) : (latch x s).offr = s.offr := rfl
@[simp] theorem latch_idx (x : Byte) (s : State) : (latch x s).idx = s.idx := rfl
@[simp] theorem latch_v (x : Byte) (s : State) : (latch x s).v = s.v := rfl
@[simp] theorem latch_ret (x : Byte) (s : State) : (latch x s).ret = s.ret := rfl
@[simp] theorem latch_sp (x : Byte) (s : State) : (latch x s).sp = s.sp := rfl
@[simp] theorem latch_inseq (x : Byte) (s : State) : (latch x s).inseq = s.inseq := rfl
@[simp] theorem latch_phase (x : Byte) (s : State) : (latch x s).phase = s.phase := rfl
@[simp] theorem latch_key (x : Byte) (s : State) : (latch x s).key = s.key := rfl
@[simp] theorem latch_toneOn (x : Byte) (s : State) : (latch x s).toneOn = s.toneOn := rfl
@[simp] theorem latch_table (x : Byte) (s : State) : (latch x s).table = s.table := rfl
@[simp] theorem latch_stream (x : Byte) (s : State) : (latch x s).stream = s.stream := rfl
@[simp] theorem latch_host (x : Byte) (s : State) : (latch x s).host = s.host := rfl
@[simp] theorem latch_rst (x : Byte) (s : State) : (latch x s).rst = s.rst := rfl
@[simp] theorem latch_trace (x : Byte) (s : State) : (latch x s).trace = s.trace := rfl
@[simp] theorem latch_rsp (x : Byte) (s : State) : (latch x s).rsp = s.rsp := rfl
@[simp] theorem latch_free (x : Byte) (s : State) : (latch x s).free = s.free := rfl

/-! ### `setRet` -/

@[simp] theorem setRet_pin (r : Byte) (s : State) : (setRet r s).pin = s.pin := rfl
@[simp] theorem setRet_invert (r : Byte) (s : State) : (setRet r s).invert = s.invert := rfl
@[simp] theorem setRet_speed (r : Byte) (s : State) : (setRet r s).speed = s.speed := rfl
@[simp] theorem setRet_eff (r : Byte) (s : State) : (setRet r s).eff = s.eff := rfl
@[simp] theorem setRet_unit (r : Byte) (s : State) : (setRet r s).unit = s.unit := rfl
@[simp] theorem setRet_dash (r : Byte) (s : State) : (setRet r s).dash = s.dash := rfl
@[simp] theorem setRet_toneEn (r : Byte) (s : State) : (setRet r s).toneEn = s.toneEn := rfl
@[simp] theorem setRet_toneCh (r : Byte) (s : State) : (setRet r s).toneCh = s.toneCh := rfl
@[simp] theorem setRet_toneFreq (r : Byte) (s : State) : (setRet r s).toneFreq = s.toneFreq := rfl
@[simp] theorem setRet_constructed (r : Byte) (s : State) : (setRet r s).constructed = s.constructed := rfl
@[simp] theorem setRet_prosign (r : Byte) (s : State) : (setRet r s).prosign = s.prosign := rfl
@[simp] theorem setRet_c (r : Byte) (s : State) : (setRet r s).c = s.c := rfl
@[simp] theorem setRet_offr (r : Byte) (s : State) : (setRet r s).offr = s.offr := rfl
@[simp] theorem setRet_idx (r : Byte) (s : State) : (setRet r s).idx = s.idx := rfl
@[simp] theorem setRet_v (r : Byte) (s : State) : (setRet r s).v = s.v := rfl
@[simp] theorem setRet_ret (r : Byte) (s : State) : (setRet r s).ret = r := rfl
@[simp] theorem setRet_sp (r : Byte) (s : State) : (setRet r s).sp = s.sp := rfl
@[simp] theorem setRet_inseq (r : Byte) (s : State) : (setRet r s).inseq = s.inseq := rfl
@[simp] theorem setRet_phase (r : Byte) (s : State) : (setRet r s).phase = s.phase := rfl
@[simp] theorem setRet_key (r : Byte) (s : State) : (setRet r s).key = s.key := rfl
@[simp] theorem setRet_toneOn (r : Byte) (s : State) : (setRet r s).toneOn = s.toneOn := rfl
@[simp] theorem setRet_table (r : Byte) (s : State) : (setRet r s).table = s.table := rfl
@[simp] theorem setRet_stream (r : Byte) (s : State) : (setRet r s).stream = s.stream := rfl
@[simp] theorem setRet_host (r : Byte) (s : State) : (setRet r s).host = s.host := rfl
@[simp] theorem setRet_rst (r : Byte) (s : State) : (setRet r s).rst = s.rst := rfl
@[simp] theorem setRet_trace (r : Byte) (s : State) : (setRet r s).trace = s.trace := rfl
@[simp] theorem setRet_rsp (r : Byte) (s : State) : (setRet r s).rsp = s.rsp := rfl
@[simp] theorem setRet_free (r : Byte) (s : State) : (setRet r s).free = s.free := rfl

/-! ### `setPhase` -/

@[simp] theorem setPhase_pin (p : Phase) (s : State) : (setPhase p s).pin = s.pin := rfl
@[simp] theorem setPhase_invert (p : Phase) (s : State) : (setPhase p s).invert = s.invert := rfl
@[simp] theorem setPhase_speed (p : Phase) (s : State) : (setPhase p s).speed = s.speed := rfl
@[simp] theorem setPhase_eff (p : Phase) (s : State) : (setPhase p s).eff = s.eff := rfl
@[simp] theorem setPhase_unit (p : Phase) (s : State) : (setPhase p s).unit = s.unit := rfl
@[simp] theorem setPhase_dash (p : Phase) (s : State) : (setPhase p s).dash = s.dash := rfl
@[simp] theorem setPhase_toneEn (p : Phase) (s : State) : (setPhase p s).toneEn = s.toneEn := rfl
@[simp] theorem setPhase_toneCh (p : Phase) (s : State) : (setPhase p s).toneCh = s.toneCh := rfl
@[simp] theorem setPhase_toneFreq (p : Phase) (s : State) : (setPhase p s).toneFreq = s.toneFreq := rfl
@[simp] theorem setPhase_constructed (p : Phase) (s : State) : (setPhase p s).constructed = s.constructed := rfl
@[simp] theorem setPhase_prosign (p : Phase) (s : State) : (setPhase p s).prosign = s.prosign := rfl
@[simp] theorem setPhase_c (p : Phase) (s : State) : (setPhase p s).c = s.c := rfl
@[simp] theorem setPhase_offr (p : Phase) (s : State) : (setPhase p s).offr = s.offr := rfl
@[simp] theorem setPhase_idx (p : Phase) (s : State) : (setPhase p s).idx = s.idx := rfl
@[simp] theorem setPhase_v (p : Phase) (s : State) : (setPhase p s).v = s.v := rfl
@[simp] theorem setPhase_ret (p : Phase) (s : State) : (setPhase p s).ret = s.ret := rfl
@[simp] theorem setPhase_sp (p : Phase) (s : State) : (setPhase p s).sp = s.sp := rfl
@[simp] theorem setPhase_inseq (p : Phase) (s : State) : (setPhase p s).inseq = s.inseq := rfl
@[simp] theorem setPhase_phase (p : Phase) (s : State) : (setPhase p s).phase = p := rfl
@[simp] theorem setPhase_key (p : Phase) (s : State) : (setPhase p s).key = s.key := rfl
@[simp] theorem setPhase_toneOn (p : Phase) (s : State) : (setPhase p s).toneOn = s.toneOn := rfl
@[simp] theorem setPhase_table (p : Phase) (s : State) : (setPhase p s).table = s.table := rfl
@[simp] theorem setPhase_stream (p : Phase) (s : State) : (setPhase p s).stream = s.stream := rfl
@[simp] theorem setPhase_host (p : Phase) (s : State) : (setPhase p s).host = s.host := rfl
@[simp] theorem setPhase_rst (p : Phase) (s : State) : (setPhase p s).rst = s.rst := rfl
@[simp] theorem setPhase_trace (p : Phase) (s : State) : (setPhase p s).trace = s.trace := rfl
@[simp] theorem setPhase_rsp (p : Phase) (s : State) : (setPhase p s).rsp = s.rsp := rfl
@[simp] theorem setPhase_free (p : Phase) (s : State) : (setPhase p s).free = s.free := rfl

/-! ### `shiftV` -/

@[simp] theorem shiftV_pin (s : State) : (shiftV s).pin = s.pin := rfl
@[simp] theorem shiftV_invert (s : State) : (shiftV s).invert = s.invert := rfl
@[simp] theorem shiftV_speed (s : State) : (shiftV s).speed = s.speed := rfl
@[simp] theorem shiftV_eff (s : State) : (shiftV s).eff = s.eff := rfl
@[simp] theorem shiftV_unit (s : State) : (shiftV s).unit = s.unit := rfl
@[simp] theorem shiftV_dash (s : State) : (shiftV s).dash = s.dash := rfl
@[simp] theorem shiftV_toneEn (s : State) : (shiftV s).toneEn = s.toneEn := rfl
@[simp] theorem shiftV_toneCh (s : State) : (shiftV s).toneCh = s.toneCh := rfl
@[simp] theorem shiftV_toneFreq (s : State) : (shiftV s).toneFreq = s.toneFreq := rfl
@[simp] theorem shiftV_constructed (s : State) : (shiftV s).constructed = s.constructed := rfl
@[simp] theorem shiftV_prosign (s : State) : (shiftV s).prosign = s.prosign := rfl
@[simp] theorem shiftV_c (s : State) : (shiftV s).c = s.c := rfl
@[simp] theorem shiftV_offr (s : State) : (shiftV s).offr = s.offr := rfl
@[simp] theorem shiftV_idx (s : State) : (shiftV s).idx = s.idx := rfl
@[simp] theorem shiftV_v (s : State) : (shiftV s).v = s.v >>> 1 := rfl
@[simp] theorem shiftV_ret (s : State) : (shiftV s).ret = s.ret := rfl
@[simp] theorem shiftV_sp (s : State) : (shiftV s).sp = s.sp := rfl
@[simp] theorem shiftV_inseq (s : State) : (shiftV s).inseq = s.inseq := rfl
@[simp] theorem shiftV_phase (s : State) : (shiftV s).phase = s.phase := rfl
@[simp] theorem shiftV_key (s : State) : (shiftV s).key = s.key := rfl
@[simp] theorem shiftV_toneOn (s : State) : (shiftV s).toneOn = s.toneOn := rfl
@[simp] theorem shiftV_table (s : State) : (shiftV s).table = s.table := rfl
@[simp] theorem shiftV_stream (s : State) : (shiftV s).stream = s.stream := rfl
@[simp] theorem shiftV_host (s : State) : (shiftV s).host = s.host := rfl
@[simp] theorem shiftV_rst (s : State) : (shiftV s).rst = s.rst := rfl
@[simp] theorem shiftV_trace (s : State) : (shiftV s).trace = s.trace := rfl
@[simp] theorem shiftV_rsp (s : State) : (shiftV s).rsp = s.rsp := rfl
@[simp] theorem shiftV_free (s : State) : (shiftV s).free = s.free := rfl

/-! ### `resolve` -/

@[simp] theorem resolve_pin (s : State) : (resolve s).pin = s.pin := rfl
@[simp] theorem resolve_invert (s : State) : (resolve s).invert = s.invert := rfl
@[simp] theorem resolve_speed (s : State) : (resolve s).speed = s.speed := rfl
@[simp] theorem resolve_eff (s : State) : (resolve s).eff = s.eff := rfl
@[simp] theorem resolve_unit (s : State) : (resolve s).unit = s.unit := rfl
@[simp] theorem resolve_dash (s : State) : (resolve s).dash = s.dash := rfl
@[simp] theorem resolve_toneEn (s : State) : (resolve s).toneEn = s.toneEn := rfl
@[simp] theorem resolve_toneCh (s : State) : (resolve s).toneCh = s.toneCh := rfl
@[simp] theorem resolve_toneFreq (s : State) : (resolve s).toneFreq = s.toneFreq := rfl
@[simp] theorem resolve_constructed (s : State) : (resolve s).constructed = s.constructed := rfl
@[simp] theorem resolve_prosign (s : State) : (resolve s).prosign = s.prosign := rfl
@[simp] theorem resolve_c (s : State) : (resolve s).c = normalise s.c := rfl
@[simp] theorem resolve_offr (s : State) : (resolve s).offr = offsetOf s.c := rfl
@[simp] theorem resolve_idx (s : State) : (resolve s).idx = indexOf s.c := rfl
@[simp] theorem resolve_v (s : State) : (resolve s).v = s.v := rfl
@[simp] theorem resolve_ret (s : State) : (resolve s).ret = returnOf s.c := rfl
@[simp] theorem resolve_sp (s : State) : (resolve s).sp = s.sp := rfl
@[simp] theorem resolve_inseq (s : State) : (resolve s).inseq = s.inseq := rfl
@[simp] theorem resolve_phase (s : State) : (resolve s).phase = s.phase := rfl
@[simp] theorem resolve_key (s : State) : (resolve s).key = s.key := rfl
@[simp] theorem resolve_toneOn (s : State) : (resolve s).toneOn = s.toneOn := rfl
@[simp] theorem resolve_table (s : State) : (resolve s).table = s.table := rfl
@[simp] theorem resolve_stream (s : State) : (resolve s).stream = s.stream := rfl
@[simp] theorem resolve_host (s : State) : (resolve s).host = s.host := rfl
@[simp] theorem resolve_rst (s : State) : (resolve s).rst = s.rst := rfl
@[simp] theorem resolve_trace (s : State) : (resolve s).trace = s.trace := rfl
@[simp] theorem resolve_rsp (s : State) : (resolve s).rsp = s.rsp := rfl
@[simp] theorem resolve_free (s : State) : (resolve s).free = s.free := rfl

end Sys2Proof.Machine
end

