-- ==== Sys2Proof/Laws/Ops.lean ====
section
/-!
SUPPORT. What each shared operation can do, said once: the pulse, the decoding loop, the end of a character, a look-up
character, and the hardware reset. The provers cite these and unfold nothing.
-/
namespace Sys2Proof.Machine

open Sys2Proof.Safety

/-- A pulse appends its event list, leaves the output idle and the tone as R93 leaves it, and changes nothing else. -/
theorem pulse_eq (mark : Millis) (s : State) :
    pulse mark s =
      { s with trace := s.trace ++ pulseEvents s mark, key := s.invert, toneOn := s.toneOn && !s.toneEn } := by
  cases h : s.toneEn <;>
    simp [pulse, pulseEvents, h, startTone, stopTone, driveLevel, delay, emit, activeLevel, idleLevel]

/-- Keying the element at bit 0 and shifting. -/
theorem keyElement_eq (s : State) :
    keyElement s =
      { s with
        v := s.v >>> 1, trace := s.trace ++ elementEvents s (s.v.getLsbD 0), key := s.invert,
        toneOn := s.toneOn && !s.toneEn } := by
  unfold keyElement elementEvents
  generalize s.v.getLsbD 0 = bit
  cases bit <;> simp [dashPulse, dotPulse, pulse_eq, shiftV]

/-- What `V` holds after at most `fuel` rounds of the loop of R101. -/
def shifted : Nat → Byte → Byte
  | 0, v => v
  | fuel + 1, v => if v = 1 then v else shifted fuel (v >>> 1)

/-- The loop of R101, in closed form. -/
theorem keyRounds_eq (fuel : Nat) (s : State) :
    keyRounds fuel s =
      { s with
        v := shifted fuel s.v, trace := s.trace ++ keyEvents s (unpackFrom fuel s.v),
        key := if unpackFrom fuel s.v = [] then s.key else s.invert,
        toneOn := if unpackFrom fuel s.v = [] then s.toneOn else s.toneOn && !s.toneEn } := by
  induction fuel generalizing s with
  | zero => apply State.ext <;> simp [keyRounds, shifted, unpackFrom, keyEvents]
  | succ n ih =>
    by_cases hv : s.v = 1
    · apply State.ext <;> simp [keyRounds, shifted, unpackFrom, keyEvents, hv]
    · have hb (x y : Bool) : ((x && !y) && !y) = (x && !y) := by cases x <;> cases y <;> rfl
      have hk (t : State) : keyEvents (keyElement t) = keyEvents t := by rw [keyElement_eq]; rfl
      have hs := keyElement_eq s
      simp only [keyRounds, shifted, unpackFrom, hv, if_false, ih, hk]
      by_cases he : unpackFrom n (s.v >>> 1) = []
      · simp [hs, he, keyEvents]
      · simp [hs, he, keyEvents, hb]

/-- A symbol byte is down to the terminator after 7 rounds (R104). -/
theorem shifted_symbol : ∀ b : Byte, b ≠ 0 → shifted 7 b = 1 := by decide +kernel

/-- The byte 0 never gets there (R105). -/
theorem shifted_zero : shifted 7 0 = 0 := by decide

/-- The index of every character is in the table (R39, R75). -/
theorem indexOf_lt : ∀ c : Byte, (indexOf c).toNat < 70 := by decide +kernel

theorem finish_eq (s : State) : finish s = ended s := rfl

theorem letterGap_eq (s : State) : letterGap s = { s with trace := s.trace ++ gapEvents s } := by
  cases h : s.prosign <;> apply State.ext <;> simp [letterGap, gapDue, gapEvents, h]

/-- The loaded symbol byte, keyed to its end (R121 to R123). -/
theorem keyLoaded_symbol {s : State} (hv : s.v ≠ 0) :
    keyLoaded s =
      ended { s with
        v := 1, trace := s.trace ++ keyEvents s (unpack s.v) ++ gapEvents s,
        key := if unpack s.v = [] then s.key else s.invert,
        toneOn := if unpack s.v = [] then s.toneOn else s.toneOn && !s.toneEn } := by
  simp only [keyLoaded, keyRounds_eq, shifted_symbol _ hv, if_true, letterGap_eq, finish_eq, unpack]
  rfl

/-- The byte 0, keyed so far as one step keys it: seven dots, and the decoder still testing 0 (R105). -/
theorem keyLoaded_zero {s : State} (hv : s.v = 0) :
    keyLoaded s =
      { s with
        phase := .test, trace := s.trace ++ keyEvents s (List.replicate 7 false), key := s.invert,
        toneOn := s.toneOn && !s.toneEn } := by
  have hu : unpackFrom 7 0 = List.replicate 7 false := by decide
  have h0 : ¬ shifted 7 s.v = 1 := by rw [hv]; decide
  simp only [keyLoaded, keyRounds_eq, h0, if_false]
  rw [hv, hu, shifted_zero]
  apply State.ext <;> rfl

theorem load_resolve (c : Byte) (s : State) :
    load (resolve (latch c s)) = some { resolve (latch c s) with v := symbolOf s c } := by
  simp [load, Memory.read_inside (indexOf_lt c), symbolOf]

/-- A look-up character always ends in a next state; this is it when its entry is a symbol byte. -/
theorem lookUpAndKey_symbol {c : Byte} {s : State} (hv : symbolOf s c ≠ 0) :
    lookUpAndKey c s =
      .next (looked s (normalise c) (offsetOf c) (indexOf c) (returnOf c) (unpack (symbolOf s c))) := by
  rw [lookUpAndKey, load_resolve]
  simp only [keyLoaded_symbol (s := { resolve (latch c s) with v := symbolOf s c }) hv]
  rfl

/-- A look-up character always ends in a next state, whatever the table holds. -/
theorem lookUpAndKey_next (c : Byte) (s : State) :
    lookUpAndKey c s = .next (keyLoaded { resolve (latch c s) with v := symbolOf s c }) := by
  rw [lookUpAndKey, load_resolve]

/-- What `keyLoaded` can do to the state: the registers it never touches. -/
theorem keyLoaded_cases (s : State) :
    (s.v ≠ 0 ∧ keyLoaded s =
      ended { s with
        v := 1, trace := s.trace ++ keyEvents s (unpack s.v) ++ gapEvents s,
        key := if unpack s.v = [] then s.key else s.invert,
        toneOn := if unpack s.v = [] then s.toneOn else s.toneOn && !s.toneEn }) ∨
    (s.v = 0 ∧ keyLoaded s =
      { s with
        phase := .test, trace := s.trace ++ keyEvents s (List.replicate 7 false), key := s.invert,
        toneOn := s.toneOn && !s.toneEn }) := by
  by_cases hv : s.v = 0
  · exact .inr ⟨hv, keyLoaded_zero hv⟩
  · exact .inl ⟨hv, keyLoaded_symbol hv⟩

/-- What the end of a character leaves alone. -/
theorem ended_frame (s : State) :
    SameConfig s (ended s) ∧ SameInputs s (ended s) ∧ SameWorking s (ended s) ∧ (ended s).trace = s.trace ∧
    (ended s).prosign = s.prosign ∧ (ended s).inseq = s.inseq ∧ (ended s).key = s.key ∧ (ended s).toneOn = s.toneOn := by
  unfold ended
  split <;> exact ⟨by constructor <;> rfl, by constructor <;> first | rfl | (intro; rfl), by constructor <;> rfl,
    rfl, rfl, rfl, rfl, rfl⟩

theorem hardwareReset_reset : hardwareReset State.reset = State.reset := rfl

/-- A command that is not accepted changes nothing (R128, R162). -/
theorem execSendChar_held {c : Byte} {s : State} (h : admitsSend s = false) : execSendChar c s = .next s := by
  simp [execSendChar, h]

theorem execSendSeq_held {bs : List Byte} {s : State} (h : admitsSend s = false) : execSendSeq bs s = .next s := by
  simp [execSendSeq, h]

/-- The three branches of R110. -/
theorem sendCharacter_cases (c : Byte) (s : State) :
    (c = 32 ∧ sendCharacter c s = execSp s) ∨ (c = 60 ∧ sendCharacter c s = execProOpen s) ∨
    (c = 62 ∧ sendCharacter c s = execProClose s) ∨
    (c ≠ 32 ∧ c ≠ 60 ∧ c ≠ 62 ∧ sendCharacter c s = lookUpAndKey c s) := by
  by_cases h1 : c = 32
  · exact .inl ⟨h1, if_pos h1⟩
  · by_cases h2 : c = 60
    · exact .inr (.inl ⟨h2, by rw [sendCharacter, if_neg h1, if_pos h2]⟩)
    · by_cases h3 : c = 62
      · exact .inr (.inr (.inl ⟨h3, by rw [sendCharacter, if_neg h1, if_neg h2, if_pos h3]⟩))
      · exact .inr (.inr (.inr ⟨h1, h2, h3, by rw [sendCharacter, if_neg h1, if_neg h2, if_neg h3]⟩))

/-- Sending one character always ends in a next state. -/
theorem sendCharacter_next (c : Byte) (s : State) : ∃ t, sendCharacter c s = .next t := by
  rcases sendCharacter_cases c s with ⟨-, h⟩ | ⟨-, h⟩ | ⟨-, h⟩ | ⟨-, -, -, h⟩
  · exact ⟨_, h⟩
  · exact ⟨_, h⟩
  · exact ⟨_, h⟩
  · exact ⟨_, h.trans (lookUpAndKey_next c s)⟩

end Sys2Proof.Machine
end

