-- ==== Sys2Proof/Laws/Commands.lean ====
section
/-!
SUPPORT. What decoding a character word runs, and what each command can do: taken or held. The provers cite these and
unfold no meaning.
-/
namespace Sys2Proof.Machine

open Sys2Proof.Safety

/-- A decoded character word runs the machine of R110 on it, whichever class it decodes to. -/
theorem exec_char (c : Byte) (s : State) : exec (decodeChar c) s = sendCharacter c s := by
  unfold decodeChar
  repeat' split
  all_goals first | (subst_vars; rfl) | (simp only [exec, sendCharacter, *, if_false]; rfl)

/-- A decoded byte of a stream is the end or a character (R54, R126). -/
theorem exec_streamByte (b : Byte) (s : State) :
    exec (decodeStreamByte b) s = if b = 0 then execEndSeq s else sendCharacter b s := by
  unfold decodeStreamByte
  split
  · rfl
  · exact exec_char b s

theorem execSendChar_taken {c : Byte} {s : State} (h : admitsSend s = true) :
    execSendChar c s = sendCharacter c { s with inseq := false } := if_pos h

theorem execSendSeq_taken {bs : List Byte} {s : State} (h : admitsSend s = true) :
    execSendSeq bs s = runStream bs (startStream bs s) := if_pos h

/-- A construction in one update (R80, R85, R160). -/
theorem construct_eq (pin : PinId) (speed : Wpm) (invert : Bool) (s : State) :
    construct pin speed invert s =
      { s with
        pin := pin, invert := invert, speed := speed, eff := effective speed, unit := unitOf (effective speed),
        dash := dashOf (unitOf (effective speed)), prosign := false, constructed := true, inseq := false,
        phase := .idle, key := invert, toneOn := false, trace := s.trace ++ [.cfg pin, .lvl pin invert],
        c := Config.freeC s.free, offr := Config.freeOffr s.free, idx := Config.freeIdx s.free,
        v := Config.freeV s.free, ret := Config.freeRet s.free, sp := Config.freeSp s.free, free := s.free + 1 } := by
  apply State.ext <;>
    simp [construct, initOutput, setTiming, freeWorking, idleLevel, driveLevel, emit]

/-- A stream, byte by byte (R125). -/
theorem runStream_end (rest : List Byte) (s : State) : runStream (0 :: rest) s = execEndSeq s := by simp [runStream]

theorem runStream_byte {b : Byte} {rest : List Byte} {s t : State} (hb : b ≠ 0) (h : sendCharacter b s = .next t) :
    runStream (b :: rest) s = if t.phase = .fetch then runStream rest t else .next t := by
  rw [runStream, if_neg hb, h]

/-- An accepted command is taken from the host and changes nothing else by that (R128). -/
theorem take_eq (i : Instr) (s : State) :
    take i s = if accepts i s = true then { s with host := s.host.tail } else s := rfl

end Sys2Proof.Machine
end

