-- ==== Sys2Proof/Laws/Step.lean ====
section
/-!
SUPPORT. What a step can do, said once per fetch point, and runs of steps.
-/
namespace Sys2Proof.Machine

open Sys2Proof.Safety

theorem run_zero (s : State) : core.run 0 s = .next s := rfl

theorem run_succ_next {s t : State} (h : step s = .next t) (n : Nat) : core.run (n + 1) s = core.run n t := by
  have hs : core.step s = .next t := h
  simp only [Host.Core.run, hs]

/-- A step under the reset line. -/
theorem step_reset {s : State} (h : s.rst = true) : step s = .next (hardwareReset s) := by simp [step, h]

/-- A step at a fetch point. -/
theorem step_fetch {s : State} {i : Instr} (h : s.rst = false) (hf : fetch s = some i) :
    step s = retire s (exec i (take i s)) := by simp [step, h, hf]

/-- A step anywhere else. -/
theorem step_phase {s : State} (h : s.rst = false) (hf : fetch s = none) : step s = phaseStep s := by simp [step, h, hf]

theorem retire_of_ne {s : State} (h : s.phase ≠ .test) (o : Outcome) : retire s o = o := by
  unfold retire; split
  · exact absurd ‹s.phase = .test› h
  · rfl

theorem take_of_ne {s : State} (h : s.phase ≠ .idle) (i : Instr) : take i s = s := by
  have hc : admitsConstruct s = false := by simp [admitsConstruct, h]
  have hs : admitsSend s = false := by simp [admitsSend, h]
  cases i <;> simp [take, accepts, hc, hs]

/-- A step that keys the element at bit 0 of `V` (R101). -/
theorem step_test {s : State} (hr : s.rst = false) (h : s.phase = .test) (hv : s.v ≠ 1) :
    step s = .next (keyElement s) := by
  have hf : fetch s = some (decodeElement (s.v.getLsbD 0)) := by
    unfold fetch; rw [h]; exact if_neg hv
  rw [step_fetch hr hf, take_of_ne (by simp [h])]
  unfold keyElement
  generalize s.v.getLsbD 0 = bit
  cases bit <;> simp [retire, h, decodeElement, exec, execDot, execDash]

/-- A step that sends the next byte of the stream (R125). -/
theorem step_byte {s : State} {b : Byte} (hr : s.rst = false) (h : s.phase = .fetch) (hb : s.stream[s.sp]? = some b) :
    step s = exec (decodeStreamByte b) s := by
  have hf : fetch s = some (decodeStreamByte b) := by simp [fetch, h, hb]
  rw [step_fetch hr hf, take_of_ne (by simp [h]), retire_of_ne (by simp [h])]

/-- A step that waits for a byte (R170). -/
theorem step_waits_byte {s : State} (hr : s.rst = false) (h : s.phase = .fetch) (hb : s.stream[s.sp]? = none) :
    step s = .next s := by
  have hf : fetch s = none := by simp [fetch, h, hb]
  rw [step_phase hr hf]; simp [phaseStep, h, phaseFetch, hb]

/-- A state that its own step gives back stays there in every run. -/
theorem run_fixed {s : State} (h : step s = .next s) (n : Nat) : core.run n s = .next s := by
  induction n with
  | zero => rfl
  | succ n ih => rw [run_succ_next h, ih]

end Sys2Proof.Machine
end

