-- ==== Sys2Proof/Laws/Phases.lean ====
section
/-!
SUPPORT. The rows of the phase table of 44_timing_fsm.md R127, one lemma each, and runs of phases put end to end.
-/
namespace Sys2Proof.Machine

open Sys2Proof.Safety

theorem row_classify {s : State} (h : s.phase = .classify) : phaseStep s = phaseClassify s := by simp [phaseStep, h]
theorem row_fetch {s : State} (h : s.phase = .fetch) : phaseStep s = phaseFetch s := by simp [phaseStep, h]
theorem row_idle {s : State} (h : s.phase = .idle) : phaseStep s = phaseIdle s := by simp [phaseStep, h]
theorem row_load {s : State} (h : s.phase = .load) : phaseStep s = phaseLoad s := by simp [phaseStep, h]
theorem row_test {s : State} (h : s.phase = .test) : phaseStep s = phaseTest s := by simp [phaseStep, h]
theorem row_wordGap {s : State} (h : s.phase = .wordGap) : phaseStep s = .next (setPhase .done (wordGap s)) := by
  simp [phaseStep, h]
theorem row_pTon {s : State} (h : s.phase = .pTon) : phaseStep s = .next (setPhase .pOn (startTone s)) := by
  simp [phaseStep, h]
theorem row_pOn {s : State} (h : s.phase = .pOn) :
    phaseStep s = .next (setPhase .pMark (driveLevel (activeLevel s) s)) := by simp [phaseStep, h]
theorem row_pMark {s : State} (h : s.phase = .pMark) :
    phaseStep s = .next (setPhase .pOff (delay (if s.v.getLsbD 0 then s.dash else s.unit) s)) := by
  simp [phaseStep, h]
theorem row_pOff {s : State} (h : s.phase = .pOff) :
    phaseStep s = .next (setPhase (if s.toneEn then .pTof else .pGap) (driveLevel (idleLevel s) s)) := by
  simp [phaseStep, h]
theorem row_pTof {s : State} (h : s.phase = .pTof) : phaseStep s = .next (setPhase .pGap (stopTone s)) := by
  simp [phaseStep, h]
theorem row_pGap {s : State} (h : s.phase = .pGap) :
    phaseStep s = .next (setPhase .test (shiftV (delay s.unit s))) := by simp [phaseStep, h]
theorem row_letterGap {s : State} (h : s.phase = .letterGap) :
    phaseStep s = .next (setPhase .done (delay (2 * s.unit) s)) := by simp [phaseStep, h]
theorem row_done {s : State} (h : s.phase = .done) : phaseStep s = .next (finish s) := by simp [phaseStep, h]

theorem classify_space {s : State} (h : s.c = 32) : phaseClassify s = .next (setPhase .wordGap (setRet 32 s)) := by
  rw [phaseClassify, if_pos h]

theorem classify_delimiter {s : State} (h : s.c = 60 ∨ s.c = 62) :
    phaseClassify s = .next (setPhase .done (setRet s.c (togglePro s))) := by
  have h32 : s.c ≠ 32 := by rcases h with h | h <;> rw [h] <;> decide
  rw [phaseClassify, if_neg h32, if_pos h]

theorem classify_lookUp {s : State} (h1 : s.c ≠ 32) (h2 : s.c ≠ 60) (h3 : s.c ≠ 62) :
    phaseClassify s = .next (setPhase .load (resolve s)) := by
  rw [phaseClassify, if_neg h1, if_neg fun h => h.elim h2 h3]

/-- One row, then the rest. -/
theorem phaseRun_next {s t : State} (h : phaseStep s = .next t) (n : Nat) : phaseRun (n + 1) s = phaseRun n t := by
  rw [phaseRun, h]

/-- A run of phases followed by another. -/
theorem phaseRun_add {s t : State} {n : Nat} (h : phaseRun n s = .next t) (m : Nat) :
    phaseRun (n + m) s = phaseRun m t := by
  induction n generalizing s with
  | zero =>
    have hst : s = t := by simpa [phaseRun] using h
    rw [hst, Nat.zero_add]
  | succ n ih =>
    rw [Nat.succ_add, phaseRun]
    rw [phaseRun] at h
    cases hs : phaseStep s with
    | next u => rw [hs] at h; exact ih h
    | fault f => rw [hs] at h; cases h
    | refused r => rw [hs] at h; cases h

/-- The rows from `TEST` through one pulse and back key one element. -/
theorem pulse_phases (s : State) (hp : s.phase = .test) (hv : s.v ≠ 1) :
    ∃ n, phaseRun n s = .next (keyElement s) := by
  rw [keyElement_eq]
  cases ht : s.toneEn
  · refine ⟨5, ?_⟩
    have r0 : phaseStep s = .next (setPhase .pOn s) := by rw [row_test hp, phaseTest, if_pos hv]; simp [ht]
    rw [phaseRun_next r0, phaseRun_next (row_pOn rfl), phaseRun_next (row_pMark rfl), phaseRun_next (row_pOff rfl),
      phaseRun_next (row_pGap (by simp [ht]))]
    simp only [phaseRun, Host.Outcome.next.injEq]
    apply State.ext <;> simp [elementEvents, pulseEvents, ht, activeLevel, idleLevel, hp]
  · refine ⟨7, ?_⟩
    have r0 : phaseStep s = .next (setPhase .pTon s) := by rw [row_test hp, phaseTest, if_pos hv]; simp [ht]
    rw [phaseRun_next r0, phaseRun_next (row_pTon rfl), phaseRun_next (row_pOn rfl), phaseRun_next (row_pMark rfl),
      phaseRun_next (row_pOff rfl), phaseRun_next (row_pTof (by simp [ht])), phaseRun_next (row_pGap rfl)]
    simp only [phaseRun, Host.Outcome.next.injEq]
    apply State.ext <;> simp [elementEvents, pulseEvents, ht, activeLevel, idleLevel, hp]

/-- The rows from `TEST` through any number of rounds of the loop of R101. -/
theorem rounds_phases (n : Nat) (s : State) (hp : s.phase = .test) :
    ∃ k, phaseRun k s = .next (keyRounds n s) := by
  induction n generalizing s with
  | zero => exact ⟨0, rfl⟩
  | succ n ih =>
    rw [keyRounds]; split
    · exact ⟨0, rfl⟩
    · next hv =>
      obtain ⟨a, ha⟩ := pulse_phases s hp hv
      obtain ⟨b, hb⟩ := ih (keyElement s) (by rw [keyElement_eq]; exact hp)
      exact ⟨a+b, by rw [phaseRun_add ha, hb]⟩

theorem setPhase_finish (p : Phase) (s : State) : finish (setPhase p s) = finish s := by
  unfold finish setPhase; cases s.inseq <;> rfl

end Sys2Proof.Machine
end

