-- ==== Sys2Proof/Laws/Instances.lean ====
section
/-!
SUPPORT. What one step of several cores can do, said once: nothing, a refusal of an overlap, or the step of one core.
-/
namespace Sys2Proof.Machine

/-- The small-step machine away from a reset is a row of the phase table. -/
theorem smallStep_row {s : State} (h : s.rst = false) : smallStep s = phaseStep s := by simp [smallStep, h]

/-- A core is busy on a channel. -/
theorem busyOn_iff (ch : ToneId) (s : State) :
    busyOn ch s = true ↔ s.phase ≠ .idle ∧ s.toneEn = true ∧ s.toneCh = ch := by
  unfold busyOn ownTone
  cases s.toneEn <;> simp

/-- An overlap is another core, busy on the channel of the next step (R150). -/
theorem toneOverlap_iff (k : Nat) (cores : List State) (s : State) :
    toneOverlap k cores s = true ↔
      ∃ ch j u, nextTone s = some ch ∧ j ≠ k ∧ cores[j]? = some u ∧ busyOn ch u = true := by
  unfold toneOverlap
  cases h : nextTone s with
  | none => simp
  | some ch =>
    simp only [List.any_eq_true, List.mem_eraseIdx_iff_getElem?]
    constructor
    · rintro ⟨u, ⟨j, hj, hu⟩, hb⟩
      exact ⟨ch, j, u, rfl, hj, hu, hb⟩
    · rintro ⟨_, j, u, he, hj, hu, hb⟩
      obtain rfl := Option.some.inj he
      exact ⟨u, ⟨j, hj, hu⟩, hb⟩

theorem runInstance_overlap {next : State → Outcome} {k : Nat} {cores : List State} {s : State} (hs : cores[k]? = some s)
    (h : toneOverlap k cores s = true) : runInstance next k cores = .refused .toneShared := by
  simp [runInstance, hs, h]

theorem runInstance_step {next : State → Outcome} {k : Nat} {cores : List State} {s t : State} (hs : cores[k]? = some s)
    (h : toneOverlap k cores s = false) (ht : next s = .next t) : runInstance next k cores = .next (cores.set k t) := by
  simp [runInstance, hs, h, ht]

/-- Where a step of several cores goes on, nothing happened or one core made its step without an overlap. -/
theorem runInstance_next {next : State → Outcome} {k : Nat} {cores after : List State}
    (h : runInstance next k cores = .next after) :
    (cores[k]? = none ∧ after = cores) ∨
    ∃ s t, cores[k]? = some s ∧ toneOverlap k cores s = false ∧ next s = .next t ∧ after = cores.set k t := by
  unfold runInstance at h
  split at h
  · next hk => injection h with h; exact .inl ⟨hk, h.symm⟩
  · next s hk =>
    split at h
    · cases h
    · next ho =>
      cases hn : next s with
      | next t =>
        rw [hn] at h; injection h with h
        exact .inr ⟨s, t, hk, by simpa using ho, hn, h.symm⟩
      | fault f => rw [hn] at h; cases h
      | refused r => rw [hn] at h; cases h

end Sys2Proof.Machine
end

