-- ==== Sys2Proof/Laws/PerInstr.lean ====
section
/-!
SUPPORT. Statements made once per instruction. `RowAgrees`: a well-formed character instruction is encoded in a word that
matches exactly one row of spec/opcode_table.json, the row of its own mnemonic (30_encoding.md R47, R51).
-/
namespace Sys2Proof.Laws.RowAgrees

/-- The rows of the table that a character word matches, by mnemonic. -/
def rowsOf (c : Byte) : List String :=
  (charRows.filter fun r => r.applies c).map CharRow.mnemonic

/-- The word of a well-formed character instruction matches the one row of its mnemonic. -/
def Statement (i : Instr) : Prop :=
  wellFormed i = true → ∀ c, encode i = .charWord c → rowsOf c = [mnemonic i]

theorem of_word {i : Instr} {w : Byte} (he : encode i = .charWord w) (h : wellFormed i = true → rowsOf w = [mnemonic i]) :
    Statement i := by
  intro hw c hc
  rw [he] at hc
  injection hc with hc
  rw [← hc]
  exact h hw

theorem of_other {i : Instr} (h : ∀ c, encode i ≠ .charWord c) : Statement i := fun _ c hc => absurd hc (h c)

theorem rows_ctrl : ∀ c : Byte, wellFormed (.ctrl c) = true → rowsOf c = ["CTRL"] := by decide +kernel
theorem rows_sym : ∀ c : Byte, wellFormed (.sym c) = true → rowsOf c = ["SYM"] := by decide +kernel
theorem rows_low : ∀ c : Byte, wellFormed (.low c) = true → rowsOf c = ["LOW"] := by decide +kernel
theorem rows_oor : ∀ c : Byte, wellFormed (.oor c) = true → rowsOf c = ["OOR"] := by decide +kernel
theorem rows_acc : ∀ c : Byte, wellFormed (.acc c) = true → rowsOf c = ["ACC"] := by decide +kernel
theorem rows_oorf : ∀ c : Byte, wellFormed (.oorf c) = true → rowsOf c = ["OORF"] := by decide +kernel
theorem rows_accl : ∀ c : Byte, wellFormed (.accl c) = true → rowsOf c = ["ACCL"] := by decide +kernel

theorem ctrl (c : Byte) : Statement (.ctrl c) := of_word rfl (rows_ctrl c)
theorem sp : Statement .sp := of_word rfl fun _ => by decide +kernel
theorem sym (c : Byte) : Statement (.sym c) := of_word rfl (rows_sym c)
theorem proOpen : Statement .proOpen := of_word rfl fun _ => by decide +kernel
theorem proClose : Statement .proClose := of_word rfl fun _ => by decide +kernel
theorem low (c : Byte) : Statement (.low c) := of_word rfl (rows_low c)
theorem oor (c : Byte) : Statement (.oor c) := of_word rfl (rows_oor c)
theorem acc (c : Byte) : Statement (.acc c) := of_word rfl (rows_acc c)
theorem oorf (c : Byte) : Statement (.oorf c) := of_word rfl (rows_oorf c)
theorem accl (c : Byte) : Statement (.accl c) := of_word rfl (rows_accl c)
theorem construct3 (pin : PinId) (speed : Wpm) (invert : Bool) : Statement (.construct3 pin speed invert) :=
  of_other fun _ h => by cases h
theorem construct5 (pin : PinId) (speed : Wpm) (toneCh : ToneId) (freq : Hz) (invert : Bool) :
    Statement (.construct5 pin speed toneCh freq invert) := of_other fun _ h => by cases h
theorem sendChar (c : Byte) : Statement (.sendChar c) := of_other fun _ h => by cases h
theorem sendSeq (stream : List Byte) : Statement (.sendSeq stream) := of_other fun _ h => by cases h
theorem dot : Statement .dot := of_other fun _ h => by cases h
theorem dash : Statement .dash := of_other fun _ h => by cases h
theorem endSeq : Statement .endSeq := of_other fun _ h => by cases h

end Sys2Proof.Laws.RowAgrees
end

