-- ==== Sys2Proof/Laws/Trace.lean ====
section
/-!
SUPPORT. What the event list of a sequence of elements says: its delays, its time, its last level and its last tone event.
-/
namespace Sys2Proof.Machine

open Sys2Proof.Safety

theorem keyEvents_nil (s : State) : keyEvents s [] = [] := rfl

theorem keyEvents_cons (s : State) (e : Bool) (es : List Bool) :
    keyEvents s (e :: es) = elementEvents s e ++ keyEvents s es := rfl

/-- The delays of one pulse are its mark and the gap (R93, R94). -/
theorem delay_of_pulse {s : State} {mark d : Millis} (h : Event.dly d ∈ pulseEvents s mark) : d = mark ∨ d = s.unit := by
  unfold pulseEvents at h
  cases s.toneEn <;> simpa using h

/-- Every delay while a symbol is keyed is `U` or `DASH`. -/
theorem delay_of_key {s : State} {es : List Bool} {d : Millis} (h : Event.dly d ∈ keyEvents s es) :
    d = s.unit ∨ d = s.dash := by
  obtain ⟨e, -, h⟩ := List.mem_flatMap.mp h
  cases e
  · exact .inl ((delay_of_pulse h).elim id id)
  · exact (delay_of_pulse h).symm

theorem totalTime_append (a b : List Event) : totalTime (a ++ b) = totalTime a + totalTime b := by simp [totalTime]

/-- The time of one pulse (R93, R94). -/
theorem totalTime_pulse (s : State) (mark : Millis) : totalTime (pulseEvents s mark) = mark + s.unit := by
  unfold pulseEvents
  cases s.toneEn <;> simp [totalTime, duration, Rat.zero_add, Rat.add_zero]

/-- The level after one pulse is the idle one (R96). -/
theorem key_after_pulse (s : State) (mark : Millis) (k : Bool) : (pulseEvents s mark).foldl keyAfter k = s.invert := by
  unfold pulseEvents
  cases s.toneEn <;> simp [keyAfter]

/-- The tone after one pulse is off where there is a tone (R95). -/
theorem tone_after_pulse (s : State) (mark : Millis) (k : Bool) :
    (pulseEvents s mark).foldl toneAfter k = (k && !s.toneEn) := by
  unfold pulseEvents
  cases s.toneEn <;> simp [toneAfter]

end Sys2Proof.Machine
end

