-- ==== Sys2Proof/Tests/Slice0.lean ====
section
/-!
SUPPORT. The model's own tests: the well-formedness smoke test,
    words written out from the encoding tables of the spec,
single instructions against the examples and vectors of spec/ (named in each comment), single steps, and for every
obligation with hypotheses a concrete case that meets them. Expected results come from spec/, none from the model.
-/
namespace Sys2Proof.Tests

open Sys2Proof.Machine Sys2Proof.Safety

-- One theorem at a time: each worker thread of Lean reserves a stack of its own.
set_option Elab.async false

/-! ## Small states -/

/-- As after `CONSTRUCT3(13, 20, 0)`: `U` is 60 ms. -/
def plain : State :=
  { State.reset with pin := 13, speed := 20, eff := 20, unit := 60, dash := 180, constructed := true }

/-- As after `CONSTRUCT5(13, 12, 9, 700, 1)`: `U` is 100 ms, inverted, with a tone. -/
def toned : State :=
  { State.reset with
    pin := 13, invert := true, speed := 12, eff := 12, unit := 100, dash := 300, toneEn := true, toneCh := 9,
    toneFreq := 700, constructed := true, key := true }

/-- `plain` inside a sequence, about to fetch. -/
def fetching (stream : List Byte) : State :=
  { plain with inseq := true, phase := .fetch, sp := 0, stream := stream }

/-- The state after an outcome, if there is one. -/
def after : Outcome → Option State
  | .next t => some t
  | .fault _ => none
  | .refused _ => none

/-- The trace after an outcome. -/
def traceOf (o : Outcome) : Option (List Event) := (after o).map State.trace

/-- The returned bytes after an outcome. -/
def rspOf (o : Outcome) : Option (List Byte) := (after o).map State.rsp

/-- The time requested up to an outcome. -/
def timeOf (o : Outcome) : Option Rat := (after o).map fun t => totalTime t.trace

/-! ## Well-formedness: each check refuses an ill-formed term (R47, R125) -/

theorem test_ill_formed_ctrl_20 : wellFormed (.ctrl 0x20) = false := by decide
theorem test_ill_formed_sym_20 : wellFormed (.sym 0x20) = false := by decide
theorem test_ill_formed_sym_61 : wellFormed (.sym 0x61) = false := by decide
theorem test_ill_formed_sym_3c : wellFormed (.sym 0x3C) = false := by decide
theorem test_ill_formed_sym_3e : wellFormed (.sym 0x3E) = false := by decide
theorem test_ill_formed_low_60 : wellFormed (.low 0x60) = false := by decide
theorem test_ill_formed_low_7b : wellFormed (.low 0x7B) = false := by decide
theorem test_ill_formed_oor_7a : wellFormed (.oor 0x7A) = false := by decide
theorem test_ill_formed_oor_e0 : wellFormed (.oor 0xE0) = false := by decide
theorem test_ill_formed_oor_c1 : wellFormed (.oor 0xC1) = false := by decide
theorem test_ill_formed_acc_c0 : wellFormed (.acc 0xC0) = false := by decide
theorem test_ill_formed_oorf_df : wellFormed (.oorf 0xDF) = false := by decide
theorem test_ill_formed_oorf_e1 : wellFormed (.oorf 0xE1) = false := by decide
theorem test_ill_formed_accl_e0 : wellFormed (.accl 0xE0) = false := by decide
theorem test_ill_formed_stream_without_end : wellFormed (.sendSeq [0x45, 0x20]) = false := by decide

/-! ## Words written out from R47, R48, R49, R54 -/

/-- BEL, 0x07. -/
theorem test_decode_ctrl : decode (.charWord 0b00000111) = .ctrl 7 := by decide
/-- The space, 0x20. -/
theorem test_decode_sp : decode (.charWord 0b00100000) = .sp := by decide
/-- The 64th base position, 0x60. -/
theorem test_decode_sym : decode (.charWord 0b01100000) = .sym 96 := by decide
/-- `<`, 0x3C. -/
theorem test_decode_open : decode (.charWord 0b00111100) = .proOpen := by decide
/-- `>`, 0x3E. -/
theorem test_decode_close : decode (.charWord 0b00111110) = .proClose := by decide
/-- `z`, 0x7A. -/
theorem test_decode_low : decode (.charWord 0b01111010) = .low 122 := by decide
/-- The brace after `z`, 0x7B. -/
theorem test_decode_oor : decode (.charWord 0b01111011) = .oor 123 := by decide
/-- The last accented code, 0xDC. -/
theorem test_decode_acc : decode (.charWord 0b11011100) = .acc 220 := by decide
/-- 0xFF. -/
theorem test_decode_oorf : decode (.charWord 0b11111111) = .oorf 255 := by decide
/-- 0xE1. -/
theorem test_decode_accl : decode (.charWord 0b11100001) = .accl 225 := by decide
/-- The byte 0 in a stream. -/
theorem test_decode_end : decode (.streamByte 0b00000000) = .endSeq := by decide
/-- The byte 0 given to `SEND_CHAR`. -/
theorem test_decode_zero_char : decode (.charWord 0b00000000) = .ctrl 0 := by decide
/-- Element bit 0. -/
theorem test_decode_dot : decode (.elementBit false) = .dot := by decide
/-- Element bit 1. -/
theorem test_decode_dash : decode (.elementBit true) = .dash := by decide
/-- `cmd_op = 00`. -/
theorem test_decode_construct3 :
    decode (.command { CommandWord.blank 0b00 with pin := 13, speed := 20, invert := true }) =
    .construct3 13 20 true := by decide +kernel
/-- `cmd_op = 01`. -/
theorem test_decode_construct5 :
    decode (.command { CommandWord.blank 0b01 with
      pin := 13, speed := 12, toneCh := 9, freq := 700, invert := true }) =
      .construct5 13 12 9 700 true := by decide +kernel
/-- `cmd_op = 10`. -/
theorem test_decode_send_char :
    decode (.command { CommandWord.blank 0b10 with char := 0x45 }) = .sendChar 0x45 := by decide +kernel
/-- `cmd_op = 11`, program P1. -/
theorem test_decode_send_seq :
    decode (.command { CommandWord.blank 0b11 with stream := [0x53, 0x4F, 0x53, 0] }) =
    .sendSeq [0x53, 0x4F, 0x53, 0] := by decide +kernel
/-- The next instruction of a stream is one byte (R45). -/
theorem test_decode_stream : decodeStream [0x41, 0x00] = .ok (.sym 0x41, [0x00]) := rfl
/-- A stream out of bytes is no instruction (R170). -/
theorem test_decode_stream_empty : decodeStream [] = .error .outOfBytes := rfl
/-- T16 and the example of R101: 13 is `-.-`. -/
theorem test_symbol_k : decodeSymbol 13 = .ok [.dash, .dot, .dash] := rfl
/-- T22: 0 is no symbol byte (R105). -/
theorem test_symbol_zero : decodeSymbol 0 = .error .zeroSymbol := rfl
/-- T14 and T19. -/
theorem test_unpack_extremes :
    unpack 1 = [] ∧ unpack 200 = [false, false, false, true, false, false, true] := by decide +kernel
/-- The examples of R102: order matters. -/
theorem test_pack_examples :
    pack [false, true] = 6 ∧ pack [true, false] = 5 ∧
    pack [false, false, false, true, false, false, true] = 200 := by decide +kernel

/-! ## Normalisation and index (vectors of 95_test_vectors.md, part 2.2) -/

/-- T33, T46, T49, T61, T77. -/
theorem test_index_unclamped :
    indexOf 0x21 = 0 ∧ indexOf 0x60 = 63 ∧ indexOf 0x7A = 57 ∧ indexOf 0xD1 = 64 ∧
    indexOf 0xFC = 69 := by decide +kernel
/-- T50, T67, T68, T78, T32. -/
theorem test_index_clamped :
    indexOf 0x7B = 2 ∧ indexOf 0xDF = 2 ∧ indexOf 0xE0 = 2 ∧ indexOf 0xFF = 2 ∧ indexOf 0x1F = 2 := by decide +kernel
/-- T76, T66, T35, T75, T30. -/
theorem test_return_values :
    returnOf 0xFA = 218 ∧ returnOf 0xDC = 220 ∧ returnOf 0x25 = 37 ∧ returnOf 0xF7 = 35 ∧
    returnOf 0x00 = 35 := by decide +kernel
/-- R82 and R83: speeds 0, -5, 13 and 2400. -/
theorem test_speed :
    effective 0 = 1 ∧ effective (-5) = 1 ∧ unitOf (effective 13) = 1200 / 13 ∧
    unitOf (effective 2400) = 1 / 2 := by decide +kernel

/-! ## One instruction each -/

/-- R114: line feed outside prosign mode is `DLY(2U)`, returns 35. -/
theorem test_ctrl :
    traceOf (exec (.ctrl 0x0A) plain) = some [.dly 120] ∧
    rspOf (exec (.ctrl 0x0A) plain) = some [35] := by decide +kernel
/-- R114: and in prosign mode the empty trace. -/
theorem test_ctrl_prosign : traceOf (exec (.ctrl 0x0A) { plain with prosign := true }) = some [] := by decide +kernel
/-- R111: `DLY(7U)`, whatever the mode; returns 32. -/
theorem test_sp :
    traceOf (exec .sp { plain with prosign := true }) = some [.dly 420] ∧
    rspOf (exec .sp plain) = some [32] := by decide +kernel
/-- R115: the trace of `K`. -/
theorem test_sym :
    traceOf (exec (.sym 0x4B) plain) = some [.lvl 13 true, .dly 180, .lvl 13 false, .dly 60, .lvl 13 true, .dly 60,
      .lvl 13 false, .dly 60, .lvl 13 true, .dly 180, .lvl 13 false, .dly 60, .dly 120] := by decide +kernel
/-- R115, T46: an empty entry keys nothing, takes the gap and returns its own code. -/
theorem test_sym_empty_entry :
    traceOf (exec (.sym 0x60) plain) = some [.dly 120] ∧
    rspOf (exec (.sym 0x60) plain) = some [96] := by decide +kernel
/-- R112: `<` complements, so it turns an active mode off. -/
theorem test_open :
    (after (exec .proOpen { plain with prosign := true })).map State.prosign = some false ∧
    rspOf (exec .proOpen plain) = some [60] := by decide +kernel
/-- R113: `>` complements, so it turns an inactive mode on; no event. -/
theorem test_close :
    (after (exec .proClose plain)).map State.prosign = some true ∧
    traceOf (exec .proClose plain) = some [] := by decide +kernel
/-- R116: `k` is keyed as `K` and returns 75. -/
theorem test_low :
    traceOf (exec (.low 0x6B) plain) = traceOf (exec (.sym 0x4B) plain) ∧
    rspOf (exec (.low 0x6B) plain) = some [75] := by decide +kernel
/-- R119: `~`. -/
theorem test_oor :
    traceOf (exec (.oor 0x7E) plain) = some [.dly 120] ∧
    rspOf (exec (.oor 0x7E) plain) = some [35] := by decide +kernel
/-- R117: 20 units, returns 209. -/
theorem test_acc :
    timeOf (exec (.acc 0xD1) plain) = some (20 * 60) ∧
    rspOf (exec (.acc 0xD1) plain) = some [209] := by decide +kernel
/-- T64, T66: one entry, two return values. -/
theorem test_acc_shared_slot :
    traceOf (exec (.acc 0xDA) plain) = traceOf (exec (.acc 0xDC) plain) ∧
    rspOf (exec (.acc 0xDC) plain) = some [220] := by decide +kernel
/-- R120. -/
theorem test_oorf :
    traceOf (exec (.oorf 0xE7) plain) = some [.dly 120] ∧
    rspOf (exec (.oorf 0xE7) plain) = some [35] := by decide +kernel
/-- R118: as the accented capital, which it returns. -/
theorem test_accl :
    rspOf (exec (.accl 0xF1) plain) = some [209] ∧ timeOf (exec (.accl 0xF1) plain) = some 1200 := by decide +kernel
/-- The example of R93. -/
theorem test_dot :
    traceOf (exec .dot plain) = some [.lvl 13 true, .dly 60, .lvl 13 false, .dly 60] := by decide +kernel
/-- The example of R94. -/
theorem test_dash :
    traceOf (exec .dash toned) =
    some [.ton 9 700, .lvl 13 false, .dly 300, .lvl 13 true, .tof 9, .dly 100] := by decide +kernel
/-- The example of R80. -/
theorem test_construct3 :
    traceOf (exec (.construct3 13 20 false) State.reset) = some [.cfg 13, .lvl 13 false] ∧
    (after (exec (.construct3 13 20 false) State.reset)).map (fun t => (t.unit, t.dash, t.constructed)) =
    some (60, 180, true) := by decide +kernel
/-- R88, S9: a new construction starts with the flag off; speed 0 gives 1200 ms. -/
theorem test_construct3_again :
    (after (exec (.construct3 4 0 false) { toned with prosign := true })).map (fun t => (t.prosign, t.toneEn,
    t.unit)) = some (false, false, 1200) := by decide +kernel
/-- The example of R81. -/
theorem test_construct5 :
    traceOf (exec (.construct5 13 12 9 700 true) State.reset) = some [.cfg 13, .lvl 13 true] ∧
    (after (exec (.construct5 13 12 9 700 true) State.reset)).map (fun t => (t.unit, t.dash, t.toneEn, t.toneOn)) =
    some (100, 300, true, false) := by decide +kernel
/-- T30: 0 is an ordinary control code here; S3: `E`. -/
theorem test_send_char :
    rspOf (exec (.sendChar 0x00) plain) = some [35] ∧
    traceOf (exec (.sendChar 0x45) plain) =
    some [.lvl 13 true, .dly 60, .lvl 13 false, .dly 60, .dly 120] := by decide +kernel
/-- R162: not taken before construction. -/
theorem test_send_char_unbuilt : exec (.sendChar 0x45) State.reset = .next State.reset := rfl
/-- R125: "E E" takes 15 units; the byte behind the end is not sent. -/
theorem test_send_seq :
    timeOf (exec (.sendSeq [0x45, 0x20, 0x45, 0x00, 0x54]) plain) = some (15 * 60) ∧
    (after (exec (.sendSeq [0x45, 0x20, 0x45, 0x00, 0x54]) plain)).map (fun t => (t.sp, t.rsp)) =
    some (3, []) := by decide +kernel
/-- R129: "PARIS " takes 53 units. -/
theorem test_send_seq_paris :
    timeOf (exec (.sendSeq [0x50, 0x41, 0x52, 0x49, 0x53, 0x20, 0x00]) plain) = some (53 * 60) := by decide +kernel
/-- R126. -/
theorem test_end :
    (after (exec .endSeq (fetching [0]))).map (fun t => (t.phase, t.inseq, t.trace, t.rsp)) =
    some (.idle, false, [], []) := by decide +kernel

/-! ## Steps -/

/-- R128: the presented command is taken and the next one is presented. -/
theorem test_step_command :
    (after (step { plain with host := [CommandWord.blank 0b11, CommandWord.blank 0b10] })).map (fun t => t.host) =
    some [CommandWord.blank 0b10] := by decide +kernel
/-- R128: a command presented while the core is busy is held; the row `DONE` of R127. -/
theorem test_step_held :
    step { plain with phase := .done, inseq := true, host := [CommandWord.blank 0b10] } =
    .next { plain with phase := .fetch, inseq := true, sp := 1, host := [CommandWord.blank 0b10] } := rfl
/-- R125: one byte of a stream. -/
theorem test_step_stream :
    (after (step (fetching [0x3C, 0x00]))).map (fun t => (t.phase, t.sp, t.prosign)) =
    some (.fetch, 1, true) := by decide +kernel
/-- R101: after the dot at bit 0 of 6 the rest is 3. -/
theorem test_step_element :
    (after (step { plain with phase := .test, v := 6 })).map (fun t => (t.v, t.phase, t.trace.length)) =
    some (3, .test, 4) := by decide +kernel
/-- R105: 0 keys a dot and stays 0. -/
theorem test_step_zero :
    (after (step { plain with phase := .test, v := 0 })).map (fun t => (t.v, t.phase, t.trace.length)) =
    some (0, .test, 4) := by decide +kernel
/-- R161: in the middle of a pulse: no event, output and tone as they were. -/
theorem test_step_reset :
    let s := { toned with phase := .pMark, key := false, toneOn := true, rst := true }
    (after (step s)).map (fun t => (t.phase, t.constructed, t.key, t.toneOn, t.trace)) =
    some (.idle, false, false, true, []) := by decide +kernel
/-- R39, U3: a read at 70 is a fault. -/
theorem test_load_outside_table : step { plain with phase := .load, idx := 70 } = .fault .tableIndex := rfl
/-- R169: an entry 0 keeps the character from completing. -/
theorem test_zero_entry :
    (after (exec (.sym 0x45) { plain with table := Memory.put [] 36 0 })).map (fun t => (t.phase, t.v, t.rsp)) =
    some (.test, 0, []) := by decide +kernel
/-- The byte 0x41 as the next byte of a stream. -/
theorem test_fetch_word_char :
    decodeTableWord 8 0x41 = some (.sym 0x41) ∧
    fetch (State.reset.withFetchWord 8 0x41) = some (.sym 0x41) := by decide +kernel
/-- The selector 01 with operands of zeros. -/
theorem test_fetch_word_command :
    decodeTableWord 2 1 = some (.construct5 0 0 0 0 false) ∧
    fetch (State.reset.withFetchWord 2 1) = some (.construct5 0 0 0 0 false) := by decide +kernel
/-- The element bit 1. -/
theorem test_fetch_word_element :
    decodeTableWord 1 1 = some .dash ∧ fetch (State.reset.withFetchWord 1 1) = some .dash := by decide +kernel

/-! ## A concrete case for the hypotheses of every obligation that has some -/

theorem test_meets_DecodeOfEncode :
    ([.ctrl 0, .ctrl 0x1F, .sp, .sym 0x21, .sym 0x60, .proOpen, .proClose, .low 0x61, .low 0x7A, .oor 0x7B,
    .oor 0xDF, .acc 0xC1, .oorf 0xFF, .accl 0xFC, .construct3 1 0 true, .construct5 1 0 2 0 true, .sendChar 255,
    .sendSeq [0], .dot, .dash, .endSeq].all wellFormed) = true := by decide +kernel
theorem test_meets_PackUnpackInverse :
    (List.replicate 7 true).length ≤ 7 ∧ (1 : Byte) ≠ 0 ∧ (255 : Byte) ≠ 0 := by decide
theorem test_meets_DecodingLoopKeysTheSymbol :
    ({ plain with v := 200 } : State).v ≠ 0 ∧
    6 < Nat.log2 ({ plain with v := 200 } : State).v.toNat := by decide +kernel
theorem test_meets_DecodingLoopInvariant :
    ({ plain with v := 200 } : State).v ≠ 0 ∧
    7 ≤ (unpack ({ plain with v := 200 } : State).v).length := by decide +kernel
theorem test_meets_ZeroByteKeysDotsForEver :
    let s := { plain with phase := .test, v := 0 }
    s.rst = false ∧ s.phase = .test ∧ s.v = 0 := by decide +kernel
theorem test_meets_DotEvents : toned.toneEn = true ∧ plain.toneEn = false := by decide +kernel
theorem test_meets_DashEvents :
    toned.dash = 3 * toned.unit ∧ toned.toneEn = true ∧ plain.dash = 3 * plain.unit ∧
    plain.toneEn = false := by decide +kernel
theorem test_meets_ControlActsAsPlaceholder :
    wellFormed (.ctrl 0) = true ∧ wellFormed (.ctrl 0x1F) = true ∧ Memory.byteAt plain.table 2 ≠ 0 ∧
    Memory.byteAt plain.table 2 = 1 := by decide +kernel
theorem test_meets_SymbolKeysItsEntry :
    wellFormed (.sym 0x21) = true ∧ Memory.byteAt plain.table ((0x21 : Byte).toNat - 33) ≠ 0 ∧
    wellFormed (.sym 0x60) = true ∧ Memory.byteAt plain.table ((0x60 : Byte).toNat - 33) ≠ 0 := by decide +kernel
theorem test_meets_LowercaseIsFolded :
    wellFormed (.low 0x61) = true ∧ Memory.byteAt plain.table ((0x61 : Byte).toNat - 65) ≠ 0 ∧
    wellFormed (.low 0x7A) = true ∧ Memory.byteAt plain.table ((0x7A : Byte).toNat - 65) ≠ 0 := by decide +kernel
theorem test_meets_AccentedKeysItsSlot :
    (0xDC, 118, 69) ∈ accentRows ∧ Memory.byteAt plain.table (69 : Byte).toNat ≠ 0 := by decide +kernel
theorem test_meets_AccentedLowercaseIsFolded :
    ((0xF1 : Byte) - 32, 112, 64) ∈ accentRows ∧ Memory.byteAt plain.table (64 : Byte).toNat ≠ 0 := by decide +kernel
theorem test_meets_OutOfRangeIsClamped :
    wellFormed (.oor 0x7B) = true ∧ wellFormed (.oor 0xDF) = true ∧ Memory.byteAt plain.table 2 ≠ 0 ∧
    Memory.byteAt plain.table 2 = 1 := by decide +kernel
theorem test_meets_OutOfRangeFoldedIsClamped :
    wellFormed (.oorf 0xE0) = true ∧ wellFormed (.oorf 0xFF) = true ∧ Memory.byteAt plain.table 2 ≠ 0 ∧
    Memory.byteAt plain.table 2 = 1 := by decide +kernel
theorem test_meets_ZeroEntryNeverCompletes :
    let s := { plain with table := Memory.put [] 36 0 }
    (0x45 : Byte) ≠ 32 ∧ (0x45 : Byte) ≠ 60 ∧ (0x45 : Byte) ≠ 62 ∧ symbolOf s 0x45 = 0 := by decide +kernel
/-- The table of `plain`, used by the cases below. -/
theorem test_plain_has_no_zero : NoZero plain.table := by decide +kernel
theorem test_meets_LettersEAndO :
    Admissible plain.table ∧ plain.prosign = false ∧ plain.dash = 3 * plain.unit ∧
    plain.toneEn = false := by decide +kernel
theorem test_meets_CaseLaw :
    ((97 : Byte) ≤ 122 ∧ (122 : Byte) ≤ 122) ∧ (224 : Byte) ≤ 224 ∧ (224 : Byte) ≤ 255 := by decide
theorem test_meets_ReachableIndices :
    (0 : Byte) ≠ 32 ∧ (0 : Byte) ≠ 60 ∧ (0 : Byte) ≠ 62 ∧ (255 : Byte) ≠ 32 ∧ (255 : Byte) ≠ 60 ∧
    (255 : Byte) ≠ 62 := by decide
theorem test_meets_CharacterFrame_space :
    isChar .sp = true ∧ plain.inseq = false ∧ ∃ t, exec .sp plain = .next t := ⟨rfl, rfl, _, rfl⟩
theorem test_meets_CharacterFrame_delimiters :
    isChar .proOpen = true ∧ isChar .proClose = true ∧ (∃ t, exec .proOpen plain = .next t) ∧
    ∃ t, exec .proClose plain = .next t := ⟨rfl, rfl, ⟨_, rfl⟩, _, rfl⟩
theorem test_meets_CharacterFrame_in_sequence :
    isChar (.sym 0x45) = true ∧ (fetching [0x45, 0]).inseq = true ∧
    ∃ t, exec (.sym 0x45) (fetching [0x45, 0]) = .next t := ⟨rfl, rfl, _, lookUpAndKey_next 0x45 (fetching [0x45, 0])⟩
/-- Also of `ConstructFiveEffect`. -/
theorem test_meets_ConstructThreeEffect : State.reset.phase = .idle ∧ toned.phase = .idle := by decide
theorem test_meets_SpeedFallback :
    plain.phase = .idle ∧ (0 : Wpm) ≤ 0 ∧ (-5 : Wpm) ≤ 0 ∧ (0 : Wpm) < 1 / 2 := by decide +kernel
theorem test_meets_SendCharRunsTheClass : plain.phase = .idle ∧ plain.constructed = true := by decide
/-- Also of `PlaceholderReportsTheAnomaly`. -/
theorem test_meets_SendCharCompletes :
    plain.phase = .idle ∧ plain.constructed = true ∧ NoZero plain.table ∧ (0 : Byte) ≠ 32 ∧ (0 : Byte) ≠ 60 ∧
    (255 : Byte) ≠ 62 := ⟨rfl, rfl, test_plain_has_no_zero, by decide, by decide, by decide⟩
theorem test_meets_CommandsAreHeld : (fetching [0]).phase ≠ .idle ∧ State.reset.constructed = false := by decide
theorem test_meets_SendBeforeConstructionWaits :
    let s := { State.reset with host := [CommandWord.blank 3] }
    s.rst = false ∧ s.phase = .idle ∧ s.constructed = false ∧ s.host = CommandWord.blank 3 :: [] ∧
    (CommandWord.blank 2).op = 2 ∧ (CommandWord.blank 3).op = 3 := ⟨rfl, rfl, rfl, rfl, rfl, rfl⟩
/-- Also of `ProsignCountsDelimiters`. -/
theorem test_meets_SendSeqIsTheCharactersInOrder :
    plain.phase = .idle ∧ plain.constructed = true ∧ NoZero plain.table ∧
    (0 : Byte) ∉ [0x3C, 0x41, 0xFF] := ⟨rfl, rfl, test_plain_has_no_zero, by decide⟩
theorem test_meets_EndReturnsToIdle :
    (fetching [0]).rst = false ∧ (fetching [0]).phase = .fetch ∧
    (fetching [0]).stream[(fetching [0]).sp]? = some 0 := by decide
/-- Also of `SteppingTheStreamIsSendSeq`. -/
theorem test_meets_UnterminatedStreamKeepsTheCoreBusy :
    plain.phase = .idle ∧ plain.constructed = true ∧ plain.rst = false ∧ NoZero plain.table ∧
    (0 : Byte) ∉ [0x45, 0x20] := ⟨rfl, rfl, rfl, test_plain_has_no_zero, by decide⟩
theorem test_meets_StepRuns_command :
    let s := { plain with host := [CommandWord.blank 2] }
    s.rst = false ∧ fetch s = some (.sendChar 0) ∧ s.phase ≠ .test ∧ s.phase = .idle ∧
    accepts (decodeCommand (CommandWord.blank 2)) s = true := by decide +kernel
theorem test_meets_StepRuns_held_command :
    let s := { State.reset with host := [CommandWord.blank 2] }
    s.rst = false ∧ s.phase = .idle ∧ accepts (decodeCommand (CommandWord.blank 2)) s = false := by decide +kernel
theorem test_meets_StepRuns_byte :
    (fetching [0x45]).phase = .fetch ∧
    (fetching [0x45]).stream[(fetching [0x45]).sp]? = some 0x45 := by decide +kernel
theorem test_meets_StepRuns_classify_and_test :
    ({ plain with phase := .classify } : State).phase = .classify ∧
    ({ plain with phase := .test, v := 2 } : State).phase = .test ∧
    ({ plain with phase := .test, v := 2 } : State).v ≠ 1 := by decide +kernel
theorem test_meets_StepRuns_row :
    fetch plain = none ∧ fetch { plain with phase := .test, v := 1 } = none ∧
    fetch { plain with phase := .load } = none := by decide +kernel
theorem test_meets_PhasesReachTheBigStepCharacter : NoZero plain.table := test_plain_has_no_zero
theorem test_meets_PhasesReachTheBigStepCommand :
    let k := { CommandWord.blank 3 with stream := [0x45, 0] }
    let s := { plain with host := [k] }
    s.rst = false ∧ s.phase = .idle ∧ NoZero s.table ∧ s.host = k :: [] ∧ accepts (decodeCommand k) s = true ∧
    wellFormed (decodeCommand k) =
    true := ⟨rfl, rfl, test_plain_has_no_zero, rfl, by decide +kernel, by decide +kernel⟩
/-- A constructed core at rest meets the invariant. -/
theorem test_plain_meets_the_invariant : Inv plain where
  canonical := by decide
  timing := fun _ => by decide +kernel
  level := fun _ => rfl
  tone := fun _ => rfl
  tonePhases := fun _ h => by rcases h with h | h <;> cases h
  unbuilt := fun h => by cases h
  between := fun _ => rfl
  fetching := fun h => by cases h
  range := fun h => by cases h
/-- Also of `NoRunEverStops` and `DelaysRequested`. -/
theorem test_meets_StepKeepsInvariant :
    Inv plain ∧ ∃ t, step plain = .next t := ⟨test_plain_meets_the_invariant, _, rfl⟩
theorem test_meets_SmallStepKeepsInvariant :
    Inv plain ∧ ∃ t, smallStep { plain with rst := false } = .next t := ⟨test_plain_meets_the_invariant, _, rfl⟩
theorem test_meets_QuietBetweenCommands :
    Inv plain ∧ core.run 3 plain = .next plain ∧ plain.phase = .idle ∧
    plain.constructed = true := ⟨test_plain_meets_the_invariant, rfl, rfl, rfl⟩
theorem test_meets_OnlyConstructionConfigures :
    isConstruct .dot = false ∧ (∀ bs, Instr.dot ≠ .sendSeq bs) ∧
    ∃ t, exec .dot plain = .next t := ⟨rfl, (fun _ h => by cases h), _, rfl⟩
/-- Also of `TraceOnlyGrows`. -/
theorem test_meets_TableNeverChanges : ∃ t, step (fetching [0x3C, 0]) = .next t := ⟨_, rfl⟩
theorem test_meets_OutputRegistersFollowTheTrace :
    ∃ t, step { plain with phase := .pOff } = .next t ∧ t.trace = [.lvl 13 false] ∧
    ∀ p, Event.cfg p ∉ t.trace := ⟨_, rfl, rfl, fun _ h => by cases h with | tail _ h => cases h⟩
theorem test_meets_PhasesIssueOneEventAtMost :
    (∃ t, phaseStep { plain with phase := .wordGap } = .next t) ∧
    ∃ t, phaseStep { plain with host := [CommandWord.blank 0] } = .next t := ⟨⟨_, rfl⟩, _, rfl⟩
theorem test_meets_CharacterDuration :
    plain.dash = 3 * plain.unit ∧ (0x45 : Byte) ≠ 32 ∧ (0x45 : Byte) ≠ 60 ∧ (0x45 : Byte) ≠ 62 ∧
    symbolOf plain 0x45 ≠ 0 := by decide +kernel
theorem test_meets_CharacterDuration_answers :
    (∃ t, exec (decodeChar 32) plain = .next t) ∧ (∃ t, exec (decodeChar 60) plain = .next t) ∧
    (∃ t, exec (decodeChar 62) plain = .next t) ∧
    ∃ t, exec (decodeChar 0x45) plain = .next t := ⟨⟨_, rfl⟩, ⟨_, rfl⟩, ⟨_, rfl⟩, _, lookUpAndKey_next 0x45 plain⟩
theorem test_meets_HardwareResetAbandonsTheCommand :
    ({ toned with rst := true, phase := .pMark } : State).rst = true := rfl
theorem test_meets_CoresAreIndependent :
    shareTable [plain, toned] [] ∧ ∃ after, stepInstance 1 [plain, toned] = .next after := ⟨by decide +kernel, _, rfl⟩
theorem test_meets_CoresAreIndependent_rows :
    ∃ after, phaseInstance 0 [{ plain with phase := .wordGap }, toned] = .next after := ⟨_, rfl⟩
theorem test_meets_MergedTraceKeepsTime :
    [Event.lvl 13 true, .dly 1, .dly 2, .lvl 13 false] =
    [Event.lvl 13 true] ++ .dly 1 :: .dly 2 :: [.lvl 13 false] := rfl
theorem test_meets_MergedTraceKeepsTime_merged :
    ∀ pre post d e,
    ([] : List Event) ≠ pre ++ Event.dly d :: Event.dly e :: post := fun pre _ _ _ h => by cases pre <;> cases h
/-- Two cores on channel 9: the first in the middle of a pulse, the second with a `SEND_CHAR` presented. -/
def overlapping : List State :=
  [{ toned with phase := .pMark }, { toned with host := [CommandWord.blank 2] }]
theorem test_meets_OverlappedToneIsRefused :
    let s := { toned with host := [CommandWord.blank 2] }
    overlapping[1]? = some s ∧ s.rst = false ∧ nextTone s = some 9 ∧ ∃ j u, j ≠ 1 ∧ overlapping[j]? = some u ∧
    u.phase ≠ .idle ∧ u.toneEn = true ∧ u.toneCh = 9 := ⟨rfl, rfl, rfl, 0, _, by decide, rfl, by decide, rfl, rfl⟩
theorem test_meets_OverlappedTone_construct :
    let w := { CommandWord.blank 1 with toneCh := 9 }
    nextTone { plain with host := [w] } = some 9 ∧ nextTone { toned with host := [CommandWord.blank 0] } = none ∧
    nextTone State.reset = none := ⟨rfl, rfl, rfl⟩
theorem test_meets_OverlappedTone_free :
    nextTone { plain with phase := .pMark } = none ∧ plain.toneEn = false ∧
    nextTone { State.reset with host := [CommandWord.blank 2] } = none ∧
    (∃ t, step { plain with phase := .pMark } = .next t) ∧
    ∃ t, phaseStep { plain with phase := .pMark } = .next t := ⟨rfl, rfl, rfl, ⟨_, rfl⟩, _, rfl⟩
/-- R150, U5: the overlapped command is refused. -/
theorem test_overlap_refused :
    stepInstance 1 overlapping = .refused .toneShared ∧
    phaseInstance 1 overlapping = .refused .toneShared := ⟨rfl, rfl⟩
/-- R149: on another channel the cores do not meet. -/
theorem test_overlap_other_channel :
    ∃ after, phaseInstance 1 [{ toned with phase := .pMark, toneCh := 8 },
    { toned with host := [CommandWord.blank 2] }] = .next after := ⟨_, rfl⟩

end Sys2Proof.Tests
end

section
/-!
The comparison of traces by merging their delays (R5, R6, D3): what `mergeCons` does in its two cases, what a trace without
two delays in a row is, and from both the facts of `mergeDelays` that O54 asks for.
-/
namespace Sys2Proof.Safety

open Sys2Proof.Machine

/-- An event and the head of the trace behind it are not both delays. -/
def StandsApart (e : Event) (l : List Event) : Prop := ∀ d d' rest, e = .dly d → l ≠ .dly d' :: rest

/-- Nowhere in the trace do two delays stand in a row. -/
def NoTwoDelays (tr : List Event) : Prop := ∀ pre post d e, tr ≠ pre ++ Event.dly d :: Event.dly e :: post

theorem noTwoDelays_nil : NoTwoDelays [] := by
  intro pre post d e h
  cases pre <;> cases h

theorem noTwoDelays_cons {e : Event} {l : List Event} :
    NoTwoDelays (e :: l) ↔ StandsApart e l ∧ NoTwoDelays l := by
  constructor
  · intro h
    constructor
    · rintro d d' rest rfl rfl
      exact h [] rest d d' rfl
    · rintro pre post d d' rfl
      exact h (e :: pre) post d d' rfl
  · rintro ⟨hhead, hrest⟩ pre post d d' h
    cases pre with
    | nil =>
      obtain ⟨he, hl⟩ := List.cons.inj h
      exact hhead d d' post he hl
    | cons x pre => exact hrest pre post d d' (List.cons.inj h).2

/-! ## One event put in front -/

/-- The two things `mergeCons` can do: put the event in front, where that makes no two delays in a row, or fuse it. -/
theorem mergeCons_cases (e : Event) (l : List Event) :
    (StandsApart e l ∧ mergeCons e l = e :: l) ∨
    ∃ d d' rest, e = .dly d ∧ l = .dly d' :: rest ∧ mergeCons e l = .dly (d + d') :: rest := by
  cases e with
  | dly d =>
    cases l with
    | nil => exact .inl ⟨fun _ _ _ _ => nofun, rfl⟩
    | cons x rest =>
      cases x with
      | dly d' => exact .inr ⟨d, d', rest, rfl, rfl, rfl⟩
      | _ => exact .inl ⟨fun _ _ _ _ => nofun, rfl⟩
  | _ => exact .inl ⟨fun _ _ _ => nofun, rfl⟩

theorem mergeCons_eq_cons {e : Event} {l : List Event} (h : StandsApart e l) : mergeCons e l = e :: l := by
  obtain ⟨-, hm⟩ | ⟨d, d', rest, rfl, rfl, -⟩ := mergeCons_cases e l
  · exact hm
  · exact absurd rfl (h d d' rest rfl)

theorem noTwoDelays_mergeCons (e : Event) {l : List Event} (h : NoTwoDelays l) : NoTwoDelays (mergeCons e l) := by
  obtain ⟨happ, hm⟩ | ⟨d, d', rest, rfl, rfl, hm⟩ := mergeCons_cases e l
  · rw [hm]
    exact noTwoDelays_cons.2 ⟨happ, h⟩
  · obtain ⟨hhead, hrest⟩ := noTwoDelays_cons.1 h
    rw [hm]
    exact noTwoDelays_cons.2 ⟨fun _ e post _ => hhead d' e post rfl, hrest⟩

theorem totalTime_cons (e : Event) (l : List Event) : totalTime (e :: l) = duration e + totalTime l := by
  simp only [totalTime, List.map_cons, List.sum_cons]

theorem totalTime_mergeCons (e : Event) (l : List Event) :
    totalTime (mergeCons e l) = duration e + totalTime l := by
  obtain ⟨-, hm⟩ | ⟨d, d', rest, rfl, rfl, hm⟩ := mergeCons_cases e l
  · rw [hm, totalTime_cons]
  · rw [hm, totalTime_cons, totalTime_cons]
    exact Rat.add_assoc d d' _

theorem filter_notDelay_mergeCons (e : Event) (l : List Event) :
    (mergeCons e l).filter notDelay = (e :: l).filter notDelay := by
  obtain ⟨-, hm⟩ | ⟨d, d', rest, rfl, rfl, hm⟩ := mergeCons_cases e l
  · rw [hm]
  · rw [hm]
    rfl

/-- Fusing two delays one after the other is fusing their sum. -/
theorem mergeCons_dly_mergeCons_dly (d e : Millis) (l : List Event) :
    mergeCons (.dly d) (mergeCons (.dly e) l) = mergeCons (.dly (d + e)) l := by
  cases l with
  | nil => rfl
  | cons x rest => cases x <;> simp only [mergeCons, Rat.add_assoc]

/-! ## The whole trace -/

theorem noTwoDelays_mergeDelays (tr : List Event) : NoTwoDelays (mergeDelays tr) := by
  induction tr with
  | nil => exact noTwoDelays_nil
  | cons e rest ih => exact noTwoDelays_mergeCons e ih

theorem mergeDelays_eq_self {tr : List Event} (h : NoTwoDelays tr) : mergeDelays tr = tr := by
  induction tr with
  | nil => rfl
  | cons e rest ih =>
    obtain ⟨hhead, hrest⟩ := noTwoDelays_cons.1 h
    rw [mergeDelays, ih hrest]
    exact mergeCons_eq_cons hhead

theorem totalTime_mergeDelays (tr : List Event) : totalTime (mergeDelays tr) = totalTime tr := by
  induction tr with
  | nil => rfl
  | cons e rest ih => rw [mergeDelays, totalTime_mergeCons, ih, totalTime_cons]

theorem filter_notDelay_mergeDelays (tr : List Event) :
    (mergeDelays tr).filter notDelay = tr.filter notDelay := by
  induction tr with
  | nil => rfl
  | cons e rest ih => rw [mergeDelays, filter_notDelay_mergeCons, List.filter_cons, ih, List.filter_cons]

/-- Tails that merge alike merge alike behind any beginning. -/
theorem mergeDelays_append_congr (pre : List Event) {a b : List Event} (h : mergeDelays a = mergeDelays b) :
    mergeDelays (pre ++ a) = mergeDelays (pre ++ b) := by
  induction pre with
  | nil => exact h
  | cons e rest ih => rw [List.cons_append, List.cons_append, mergeDelays, mergeDelays, ih]

theorem mergeDelays_fuse (pre post : List Event) (d e : Millis) :
    mergeDelays (pre ++ .dly d :: .dly e :: post) = mergeDelays (pre ++ .dly (d + e) :: post) :=
  mergeDelays_append_congr pre (mergeCons_dly_mergeCons_dly d e (mergeDelays post))

/-- Settles O54: merging makes a trace without two delays in a row, and such a trace merges to itself; time, other events
and fusion go by induction on the trace. -/
theorem mergedTraceKeepsTime : Obligations.MergedTraceKeepsTime := by
  intro tr
  refine ⟨totalTime_mergeDelays tr, mergeDelays_eq_self (noTwoDelays_mergeDelays tr), noTwoDelays_mergeDelays tr,
    filter_notDelay_mergeDelays tr, ?_, mergeDelays_eq_self⟩
  rintro pre post d e rfl
  exact mergeDelays_fuse pre post d e

end Sys2Proof.Safety
end

section
/-!
What an operation of a running command keeps, said once per operation and composed: the configuration, the table, and that
`KEY` and `TONE_ON` follow the trace (R23). From it what a character, a row of R127 and a step keep, and the obligations of
10_state.md: O42, O23, O50 and O55.
-/
namespace Sys2Proof.Safety

open Sys2Proof.Machine

/-! ## Composing frames -/

theorem SameConfig.trans {s t u : State} (h : SameConfig s t) (h' : SameConfig t u) : SameConfig s u where
  pin := h'.pin.trans h.pin
  invert := h'.invert.trans h.invert
  speed := h'.speed.trans h.speed
  eff := h'.eff.trans h.eff
  unit := h'.unit.trans h.unit
  dash := h'.dash.trans h.dash
  toneEn := h'.toneEn.trans h.toneEn
  toneCh := h'.toneCh.trans h.toneCh
  toneFreq := h'.toneFreq.trans h.toneFreq
  constructed := h'.constructed.trans h.constructed

theorem SameInputs.trans {s t u : State} (h : SameInputs s t) (h' : SameInputs t u) : SameInputs s u where
  bytes i := (h'.bytes i).trans (h.bytes i)
  stream := h'.stream.trans h.stream
  host := h'.host.trans h.host
  rst := h'.rst.trans h.rst
  free := h'.free.trans h.free

/-- `t` comes after `s`, and its `KEY` and `TONE_ON` are those of `s` after the events in between (R23); of `TONE_ON` this is
said where none of them is the `CFG` of a construction, which puts the tone off without a `TOF` (log 25). -/
def OutputFollows (s t : State) : Prop :=
  ∃ evs, t.trace = s.trace ++ evs ∧ t.key = evs.foldl keyAfter s.key ∧
    ((∀ p, Event.cfg p ∉ evs) → t.toneOn = evs.foldl toneAfter s.toneOn)

theorem OutputFollows.of_same {s t : State} (htrace : t.trace = s.trace) (hkey : t.key = s.key)
    (htone : t.toneOn = s.toneOn) : OutputFollows s t :=
  ⟨[], by rw [htrace, List.append_nil], hkey, fun _ => htone⟩

theorem OutputFollows.trans {s t u : State} (h : OutputFollows s t) (h' : OutputFollows t u) : OutputFollows s u := by
  obtain ⟨evs, htrace, hkey, htone⟩ := h
  obtain ⟨evs', htrace', hkey', htone'⟩ := h'
  refine ⟨evs ++ evs', ?_, ?_, fun hcfg => ?_⟩
  · rw [htrace', htrace, List.append_assoc]
  · rw [hkey', hkey, List.foldl_append]
  · have hl : ∀ p, Event.cfg p ∉ evs := fun p hp => hcfg p (List.mem_append_left _ hp)
    have hr : ∀ p, Event.cfg p ∉ evs' := fun p hp => hcfg p (List.mem_append_right _ hp)
    rw [htone' hr, htone hl, List.foldl_append]

/-- What every operation of a running command keeps. -/
structure Steady (s t : State) : Prop where
  config : SameConfig s t
  table : t.table = s.table
  output : OutputFollows s t

theorem Steady.trans {s t u : State} (h : Steady s t) (h' : Steady t u) : Steady s u where
  config := h.config.trans h'.config
  table := h'.table.trans h.table
  output := h.output.trans h'.output

/-- What the operations inside a character keep beside that: the inputs, the place in the sequence, the returned bytes, and
an output at rest (R96). -/
structure Keyed (s t : State) : Prop extends Steady s t where
  inputs : SameInputs s t
  sp : t.sp = s.sp
  inseq : t.inseq = s.inseq
  rsp : t.rsp = s.rsp
  idleKey : s.key = s.invert → t.key = t.invert
  silent : s.toneOn = false → t.toneOn = false

theorem Keyed.trans {s t u : State} (h : Keyed s t) (h' : Keyed t u) : Keyed s u where
  toSteady := h.toSteady.trans h'.toSteady
  inputs := h.inputs.trans h'.inputs
  sp := h'.sp.trans h.sp
  inseq := h'.inseq.trans h.inseq
  rsp := h'.rsp.trans h.rsp
  idleKey := h'.idleKey ∘ h.idleKey
  silent := h'.silent ∘ h.silent

/-! ## The operations -/

/-- Writing working registers, the flag or the phase. -/
theorem keyed_registers (s : State) (c : Byte) (offr : BitVec 7) (idx v ret : Byte) (prosign : Bool) (phase : Phase) :
    Keyed s { s with c := c, offr := offr, idx := idx, v := v, ret := ret, prosign := prosign, phase := phase } :=
  ⟨⟨by constructor <;> rfl, rfl, .of_same rfl rfl rfl⟩, ⟨fun _ => rfl, rfl, rfl, rfl, rfl⟩, rfl, rfl, rfl, id, id⟩

theorem Keyed.refl (s : State) : Keyed s s := keyed_registers s s.c s.offr s.idx s.v s.ret s.prosign s.phase

theorem keyed_latch (c : Byte) (s : State) : Keyed s (latch c s) :=
  keyed_registers s c s.offr s.idx s.v s.ret s.prosign s.phase

theorem keyed_setRet (r : Byte) (s : State) : Keyed s (setRet r s) :=
  keyed_registers s s.c s.offr s.idx s.v r s.prosign s.phase

theorem keyed_togglePro (s : State) : Keyed s (togglePro s) :=
  keyed_registers s s.c s.offr s.idx s.v s.ret (!s.prosign) s.phase

theorem keyed_setPhase (p : Phase) (s : State) : Keyed s (setPhase p s) :=
  keyed_registers s s.c s.offr s.idx s.v s.ret s.prosign p

theorem keyed_resolve (s : State) : Keyed s (resolve s) :=
  keyed_registers s (normalise s.c) (offsetOf s.c) (indexOf s.c) s.v (returnOf s.c) s.prosign s.phase

theorem keyed_setV (b : Byte) (s : State) : Keyed s { s with v := b } :=
  keyed_registers s s.c s.offr s.idx b s.ret s.prosign s.phase

theorem keyed_shiftV (s : State) : Keyed s (shiftV s) := keyed_setV (s.v >>> 1) s

theorem keyed_delay (d : Millis) (s : State) : Keyed s (delay d s) :=
  ⟨⟨by constructor <;> rfl, rfl, [.dly d], rfl, rfl, fun _ => rfl⟩, ⟨fun _ => rfl, rfl, rfl, rfl, rfl⟩,
    rfl, rfl, rfl, id, id⟩

theorem steady_driveLevel (l : Bool) (s : State) : Steady s (driveLevel l s) :=
  ⟨by constructor <;> rfl, rfl, [.lvl s.pin l], rfl, rfl, fun _ => rfl⟩

theorem steady_startTone (s : State) : Steady s (startTone s) :=
  ⟨by constructor <;> rfl, rfl, [.ton s.toneCh s.toneFreq], rfl, rfl, fun _ => rfl⟩

theorem steady_stopTone (s : State) : Steady s (stopTone s) :=
  ⟨by constructor <;> rfl, rfl, [.tof s.toneCh], rfl, rfl, fun _ => rfl⟩

theorem steady_ended (s : State) : Steady s (ended s) := by
  obtain ⟨hconfig, -, -, htrace, -, -, hkey, htone⟩ := ended_frame s
  refine ⟨hconfig, ?_, .of_same htrace hkey htone⟩
  unfold ended
  split <;> rfl

/-- Keying one element: the output goes through its pulse and is at rest again (R93, R94, R96). -/
theorem keyed_keyElement (s : State) : Keyed s (keyElement s) := by
  rw [keyElement_eq]
  have houtput : OutputFollows s { s with
      v := s.v >>> 1, trace := s.trace ++ elementEvents s (s.v.getLsbD 0), key := s.invert,
      toneOn := s.toneOn && !s.toneEn } :=
    ⟨_, rfl, (key_after_pulse s _ _).symm, fun _ => (tone_after_pulse s _ _).symm⟩
  exact ⟨⟨by constructor <;> rfl, rfl, houtput⟩, ⟨fun _ => rfl, rfl, rfl, rfl, rfl⟩, rfl, rfl, rfl, fun _ => rfl,
    fun h => by simp [h]⟩

theorem keyed_keyRounds (n : Nat) (s : State) : Keyed s (keyRounds n s) := by
  induction n generalizing s with
  | zero => exact Keyed.refl s
  | succ n ih =>
    rw [keyRounds]
    split
    · exact Keyed.refl s
    · exact (keyed_keyElement s).trans (ih _)

theorem keyed_letterGap (s : State) : Keyed s (letterGap s) := by
  unfold letterGap
  split
  · exact keyed_delay _ s
  · exact Keyed.refl s

/-! ## One character -/

/-- How a character leaves the state it has keyed: phase `DONE`, or the decoder in `TEST` for ever (R105). -/
def Closes (u t : State) : Prop := t = ended u ∨ t = setPhase .test u

/-- The frame of `Closes`: `SP` moves only inside a sequence, a byte is returned only outside one. -/
theorem Closes.frame {u t : State} (h : Closes u t) :
    Steady u t ∧ SameInputs u t ∧ t.inseq = u.inseq ∧ (u.inseq = true → t.rsp = u.rsp) ∧
    (u.inseq = false → t.sp = u.sp) := by
  obtain rfl | rfl := h
  · obtain ⟨-, hinputs, -, -, -, hinseq, -, -⟩ := ended_frame u
    refine ⟨steady_ended u, hinputs, hinseq, fun hi => ?_, fun hi => ?_⟩ <;> simp [ended, hi]
  · have hk := keyed_setPhase .test u
    exact ⟨hk.toSteady, hk.inputs, rfl, fun _ => rfl, fun _ => rfl⟩

theorem keyLoaded_closes (s : State) : ∃ u, Keyed s u ∧ Closes u (keyLoaded s) := by
  have hrounds := keyed_keyRounds 7 s
  by_cases hv : (keyRounds 7 s).v = 1
  · exact ⟨_, hrounds.trans (keyed_letterGap _), .inl (if_pos hv)⟩
  · exact ⟨_, hrounds, .inr (if_neg hv)⟩

theorem ended_prosign (s : State) : (ended s).prosign = s.prosign := by
  obtain ⟨-, -, -, -, hprosign, -⟩ := ended_frame s
  exact hprosign

theorem keyLoaded_prosign (s : State) : (keyLoaded s).prosign = s.prosign := by
  obtain ⟨-, h⟩ | ⟨-, h⟩ := keyLoaded_cases s
  · rw [h, ended_prosign]
  · rw [h]

/-- What the ten classes do: the space, a delimiter, or a look-up (R111 to R120). -/
theorem exec_char_cases {i : Instr} {s t : State} (hi : isChar i = true) (h : exec i s = .next t) :
    (i = .sp ∧ t = ended (wordGap (setRet 32 (latch 32 s)))) ∨
    ((i = .proOpen ∨ i = .proClose) ∧ ∃ c, t = ended (setRet c (togglePro (latch c s)))) ∨
    ((i ≠ .sp ∧ i ≠ .proOpen ∧ i ≠ .proClose) ∧
      ∃ c, t = keyLoaded { resolve (latch c s) with v := symbolOf s c }) := by
  have look {c : Byte} (hl : lookUpAndKey c s = .next t) :
      ∃ c, t = keyLoaded { resolve (latch c s) with v := symbolOf s c } := by
    rw [lookUpAndKey_next] at hl
    cases hl
    exact ⟨c, rfl⟩
  cases i with
  | sp => cases h; exact .inl ⟨rfl, rfl⟩
  | proOpen => cases h; exact .inr (.inl ⟨.inl rfl, 60, rfl⟩)
  | proClose => cases h; exact .inr (.inl ⟨.inr rfl, 62, rfl⟩)
  | ctrl c | sym c | low c | oor c | acc c | oorf c | accl c =>
    exact .inr (.inr ⟨⟨nofun, nofun, nofun⟩, look h⟩)
  | construct3 | construct5 | sendChar | sendSeq | dot | dash | endSeq => cases hi

/-- A character keys and then closes. -/
theorem exec_char_closes {i : Instr} {s t : State} (hi : isChar i = true) (h : exec i s = .next t) :
    ∃ u, Keyed s u ∧ Closes u t := by
  obtain ⟨-, rfl⟩ | ⟨-, c, rfl⟩ | ⟨-, c, rfl⟩ := exec_char_cases hi h
  · exact ⟨_, ((keyed_latch 32 s).trans (keyed_setRet 32 _)).trans (keyed_delay _ _), .inl rfl⟩
  · exact ⟨_, ((keyed_latch c s).trans (keyed_togglePro _)).trans (keyed_setRet c _), .inl rfl⟩
  · obtain ⟨u, hk, hc⟩ := keyLoaded_closes { resolve (latch c s) with v := symbolOf s c }
    have hloaded := ((keyed_latch c s).trans (keyed_resolve _)).trans (keyed_setV (symbolOf s c) _)
    exact ⟨u, hloaded.trans hk, hc⟩

theorem isChar_decodeChar (c : Byte) : isChar (decodeChar c) = true := by
  unfold decodeChar
  repeat' split
  all_goals rfl

theorem sendCharacter_closes {c : Byte} {s t : State} (h : sendCharacter c s = .next t) :
    ∃ u, Keyed s u ∧ Closes u t :=
  exec_char_closes (isChar_decodeChar c) ((exec_char c s).trans h)

/-- Settles O23: the general clauses from `exec_char_closes` and the frame of the end of a character; the flag, the look-up
registers and the trace class by class. -/
theorem characterFrame : Obligations.CharacterFrame := by
  intro i s t hi ht
  obtain ⟨u, hk, hc⟩ := exec_char_closes hi ht
  obtain ⟨hsteady, hinputs, hinseq, hrsp, hsp⟩ := hc.frame
  refine ⟨hk.config.trans hsteady.config, hk.inputs.trans hinputs, hinseq.trans hk.inseq, fun hno hnc => ?_,
    fun h => (hrsp (hk.inseq.trans h)).trans hk.rsp, fun h => (hsp (hk.inseq.trans h)).trans hk.sp, fun h => ?_,
    fun h => ?_⟩
  · obtain ⟨-, rfl⟩ | ⟨hd, -⟩ | ⟨-, c, rfl⟩ := exec_char_cases hi ht
    · exact ended_prosign _
    · exact (hd.elim hno hnc).elim
    · exact keyLoaded_prosign _
  · obtain ⟨-, rfl⟩ | ⟨-, c, rfl⟩ | ⟨⟨hns, hno, hnc⟩, -⟩ := exec_char_cases hi ht
    · obtain ⟨-, -, hw, -, -, -, hkey, htone⟩ := ended_frame (wordGap (setRet 32 (latch 32 s)))
      exact ⟨hkey, htone, hw.idx, hw.offr, hw.v⟩
    · obtain ⟨-, -, hw, -, -, -, hkey, htone⟩ := ended_frame (setRet c (togglePro (latch c s)))
      exact ⟨hkey, htone, hw.idx, hw.offr, hw.v⟩
    · exact (h.elim hns fun h => h.elim hno hnc).elim
  · obtain ⟨rfl, -⟩ | ⟨-, c, rfl⟩ | ⟨⟨-, hno, hnc⟩, -⟩ := exec_char_cases hi ht
    · exact h.elim nofun nofun
    · obtain ⟨-, -, -, htrace, -⟩ := ended_frame (setRet c (togglePro (latch c s)))
      exact htrace
    · exact (h.elim hno hnc).elim

/-! ## What a step can do -/

theorem take_accepted {i : Instr} {s : State} {k : CommandWord} {rest : List CommandWord} (ha : accepts i s = true)
    (hk : s.host = k :: rest) : take i s = { s with host := rest } := by
  rw [take_eq, if_pos ha, hk]
  rfl

theorem take_held {i : Instr} {s : State} (ha : accepts i s = false) : take i s = s := by simp [take_eq, ha]

/-- A step of an idle core to which the command word `k` is presented: a construction and a command that is held are a row of
R127, a send that is accepted runs whole. -/
theorem step_command_cases {s t : State} {k : CommandWord} {rest : List CommandWord} (hr : s.rst = false)
    (hp : s.phase = .idle) (hk : s.host = k :: rest) (h : step s = .next t) :
    phaseStep s = .next t ∨ (s.constructed = true ∧
      (sendCharacter k.char { s with host := rest, inseq := false } = .next t ∨
        runStream k.stream (startStream k.stream { s with host := rest }) = .next t)) := by
  have hf : fetch s = some (decodeCommand k) := by simp [fetch, hp, hk]
  have hc : admitsConstruct s = true := by simp [admitsConstruct, hp]
  rw [step_fetch hr hf, retire_of_ne (by simp [hp])] at h
  rw [row_idle hp, phaseIdle, hk]
  by_cases h0 : k.op = 0
  · have hd : decodeCommand k = .construct3 k.pin k.speed k.invert := if_pos h0
    rw [hd, take_accepted (i := .construct3 _ _ _) hc hk] at h
    exact .inl ((if_pos h0).trans h)
  by_cases h1 : k.op = 1
  · have hd : decodeCommand k = .construct5 k.pin k.speed k.toneCh k.freq k.invert := (if_neg h0).trans (if_pos h1)
    rw [hd, take_accepted (i := .construct5 _ _ _ _ _) hc hk] at h
    exact .inl ((if_neg h0).trans ((if_pos h1).trans h))
  have hd : decodeCommand k = .sendChar k.char ∨ decodeCommand k = .sendSeq k.stream := by
    simp only [decodeCommand, h0, h1, if_false]
    split <;> simp
  cases hs : admitsSend s with
  | false =>
    left
    have hheld : s = t := by
      obtain hd | hd := hd
      · rw [hd, take_held (i := .sendChar _) hs] at h
        exact Host.Outcome.next.inj ((execSendChar_held hs).symm.trans h)
      · rw [hd, take_held (i := .sendSeq _) hs] at h
        exact Host.Outcome.next.inj ((execSendSeq_held hs).symm.trans h)
    exact (if_neg h0).trans ((if_neg h1).trans ((if_pos rfl).trans (congrArg _ hheld)))
  | true =>
    have hb : s.constructed = true := by simpa [admitsSend, hp] using hs
    have hs' : admitsSend { s with host := rest } = true := hs
    refine .inr ⟨hb, ?_⟩
    obtain hd | hd := hd
    · rw [hd, take_accepted (i := .sendChar _) hs hk] at h
      exact .inl ((execSendChar_taken hs').symm.trans h)
    · rw [hd, take_accepted (i := .sendSeq _) hs hk] at h
      exact .inr ((execSendSeq_taken hs').symm.trans h)

/-- A step that goes on is a reset (R161), a row of R127, one element keyed (R101), one character (R110, R125), or a whole
send command taken from the host (R110, R125). -/
theorem step_cases {s t : State} (h : step s = .next t) :
    (s.rst = true ∧ t = hardwareReset s) ∨ phaseStep s = .next t ∨
    (s.phase = .test ∧ t = keyElement s) ∨
    ((s.phase = .fetch ∨ s.phase = .classify) ∧ ∃ c, sendCharacter c s = .next t) ∨
    (s.phase = .idle ∧ s.constructed = true ∧ ∃ rest,
      (∃ c, sendCharacter c { s with host := rest, inseq := false } = .next t) ∨
      ∃ bs, runStream bs (startStream bs { s with host := rest }) = .next t) := by
  by_cases hr : s.rst = true
  · rw [step_reset hr] at h
    cases h
    exact .inl ⟨hr, rfl⟩
  · rw [Bool.not_eq_true] at hr
    refine .inr ?_
    cases hf : fetch s with
    | none => exact .inl ((step_phase hr hf).symm.trans h)
    | some i =>
      obtain ⟨p, hp⟩ : ∃ p, s.phase = p := ⟨_, rfl⟩
      cases p with
      | idle =>
        cases hk : s.host with
        | nil => simp [fetch, hp, hk] at hf
        | cons k rest =>
          obtain hrow | ⟨hb, hchar | hseq⟩ := step_command_cases hr hp hk h
          · exact .inl hrow
          · exact .inr (.inr (.inr ⟨hp, hb, rest, .inl ⟨_, hchar⟩⟩))
          · exact .inr (.inr (.inr ⟨hp, hb, rest, .inr ⟨_, hseq⟩⟩))
      | fetch =>
        obtain ⟨b, hb, -⟩ : ∃ b, s.stream[s.sp]? = some b ∧ decodeStreamByte b = i := by
          simpa [fetch, hp] using hf
        rw [step_byte hr hp hb, exec_streamByte] at h
        split at h
        · next h0 => exact .inl (by rw [row_fetch hp, phaseFetch, hb, h0]; exact h)
        · exact .inr (.inr (.inl ⟨.inl hp, b, h⟩))
      | classify =>
        have hc : fetch s = some (decodeChar s.c) := by simp [fetch, hp]
        rw [step_fetch hr hc, take_of_ne (by simp [hp]), retire_of_ne (by simp [hp]), exec_char] at h
        exact .inr (.inr (.inl ⟨.inr hp, s.c, h⟩))
      | test =>
        have hv : s.v ≠ 1 := by
          intro hv
          simp [fetch, hp, hv] at hf
        rw [step_test hr hp hv] at h
        cases h
        exact .inr (.inl ⟨hp, rfl⟩)
      | _ => simp [fetch, hp] at hf

/-! ## What a row of R127 can do -/

/-- What an idle core does in a row of R127: wait, construct, or take a send command. -/
theorem phaseIdle_cases {s t : State} (hp : s.phase = .idle) (h : phaseStep s = .next t) :
    t = s ∨
    (∃ s' pin speed invert, s'.table = s.table ∧ OutputFollows s s' ∧ t = construct pin speed invert s') ∨
    (s.constructed = true ∧ ∃ rest,
      (∃ c, t = setPhase .classify (latch c { s with host := rest, inseq := false })) ∨
      ∃ bs, t = startStream bs { s with host := rest }) := by
  rw [row_idle hp] at h
  unfold phaseIdle at h
  split at h
  · cases h; exact .inl rfl
  next k rest _ =>
  have hc : admitsConstruct { s with host := rest } = true := by simp [admitsConstruct, hp]
  split at h
  · rw [execConstruct3, if_pos hc] at h
    cases h
    refine .inr (.inl ⟨_, _, _, _, ?_, ?_, rfl⟩)
    · rfl
    · exact .of_same rfl rfl rfl
  split at h
  · rw [execConstruct5, if_pos hc] at h
    cases h
    refine .inr (.inl ⟨_, _, _, _, ?_, ?_, rfl⟩)
    · rfl
    · exact .of_same rfl rfl rfl
  split at h
  · cases h; exact .inl rfl
  next hs =>
  have hb : s.constructed = true := by simpa [admitsSend, hp] using hs
  split at h
  · cases h
    exact .inr (.inr ⟨hb, rest, .inl ⟨_, rfl⟩⟩)
  · cases h
    exact .inr (.inr ⟨hb, rest, .inr ⟨_, rfl⟩⟩)

/-- What a running command does at a fetch point in a row of R127. -/
theorem phaseFetch_cases {s t : State} (h : phaseFetch s = .next t) :
    t = s ∨ t = { s with phase := .idle, inseq := false } ∨ ∃ b, t = setPhase .classify (latch b s) := by
  unfold phaseFetch at h
  split at h
  · cases h; exact .inl rfl
  · split at h
    · cases h; exact .inr (.inl rfl)
    · cases h; exact .inr (.inr ⟨_, rfl⟩)

theorem phaseClassify_cases {s t : State} (h : phaseClassify s = .next t) :
    t = setPhase .wordGap (setRet 32 s) ∨ t = setPhase .done (setRet s.c (togglePro s)) ∨
    t = setPhase .load (resolve s) := by
  unfold phaseClassify at h
  split at h
  · cases h; exact .inl rfl
  · split at h
    · cases h; exact .inr (.inl rfl)
    · cases h; exact .inr (.inr rfl)

theorem phaseLoad_cases {s t : State} (h : phaseLoad s = .next t) : ∃ b, t = setPhase .test { s with v := b } := by
  unfold phaseLoad load at h
  cases hr : Memory.read s.table s.idx.toNat with
  | none => simp [hr] at h
  | some b =>
    simp only [hr, Host.Outcome.next.injEq] at h
    exact ⟨b, h.symm⟩

/-! ## What a running command keeps -/

/-- What the invariant says of a constructed core beside its table and its timing: output, tone, `INSEQ` and `IDX` are as the
phase says. -/
structure PhaseFits (s : State) : Prop where
  level : s.key = (s.invert ^^ marking s.phase)
  tone : s.toneOn = (s.toneEn && sounding s.phase)
  tonePhases : s.phase = .pTon ∨ s.phase = .pTof → s.toneEn = true
  between : s.phase = .idle → s.inseq = false
  fetching : s.phase = .fetch → s.inseq = true
  range : s.phase = .load → s.idx.toNat < 70

/-- The phases in which the output is at rest and the invariant asks for nothing more. -/
def restingPhases : List Phase := [.classify, .wordGap, .test, .pGap, .letterGap, .done]

theorem phaseFits_resting {p : Phase} {s : State} (hp : p ∈ restingPhases) (hkey : s.key = s.invert)
    (htone : s.toneOn = false) : PhaseFits (setPhase p s) := by
  simp only [restingPhases, List.mem_cons, List.not_mem_nil, or_false] at hp
  rcases hp with rfl | rfl | rfl | rfl | rfl | rfl <;> constructor <;> simp [hkey, htone, marking, sounding]

/-- The end of a character fits its phase, `IDLE` or `FETCH` as `INSEQ` says. -/
theorem phaseFits_ended {s : State} (hkey : s.key = s.invert) (htone : s.toneOn = false) : PhaseFits (ended s) := by
  unfold ended
  split
  · next hi => constructor <;> simp [hkey, htone, hi, marking, sounding]
  · next hi => constructor <;> simp [hkey, htone, hi, marking, sounding]

/-- Where the output is at rest before, what is `Keyed` leaves it so. -/
theorem PhaseFits.atRest {s u : State} {q : Phase} (hf : PhaseFits s) (hk : Keyed s u) (hq : s.phase = q)
    (hrest : marking q = false ∧ sounding q = false) : u.key = u.invert ∧ u.toneOn = false :=
  ⟨hk.idleKey (by simp [hf.level, hq, hrest]), hk.silent (by simp [hf.tone, hq, hrest])⟩

/-- A row from one phase at rest to another. -/
theorem Keyed.row {s u : State} {p q : Phase} (hk : Keyed s u) (hq : s.phase = q)
    (hrest : marking q = false ∧ sounding q = false) (hp : p ∈ restingPhases) :
    Steady s (setPhase p u) ∧ (PhaseFits s → PhaseFits (setPhase p u)) := by
  refine ⟨hk.toSteady.trans (keyed_setPhase p u).toSteady, fun hf => ?_⟩
  obtain ⟨hkey, htone⟩ := hf.atRest hk hq hrest
  exact phaseFits_resting hp hkey htone

/-- The terminator leaves the sequence and its phase together (R126). -/
theorem endSeq_row {s : State} (hq : s.phase = .fetch) :
    Steady s { s with phase := .idle, inseq := false } ∧
    (PhaseFits s → PhaseFits { s with phase := .idle, inseq := false }) := by
  refine ⟨⟨by constructor <;> rfl, rfl, .of_same rfl rfl rfl⟩, fun hf => ?_⟩
  constructor <;> simp [hf.level, hf.tone, hq, marking, sounding]

/-- A row of R127 in a running command keeps the configuration and the table, the output registers follow the trace, and the
phase goes on to one that fits. -/
theorem phaseStep_row {s t : State} (hp : s.phase ≠ .idle) (h : phaseStep s = .next t) :
    Steady s t ∧ (PhaseFits s → PhaseFits t) := by
  cases hq : s.phase with
  | idle => exact absurd hq hp
  | fetch =>
    obtain rfl | rfl | ⟨b, rfl⟩ := phaseFetch_cases ((row_fetch hq).symm.trans h)
    · exact ⟨(Keyed.refl t).toSteady, id⟩
    · exact endSeq_row hq
    · exact (keyed_latch b s).row hq ⟨rfl, rfl⟩ (by decide)
  | classify =>
    obtain rfl | rfl | rfl := phaseClassify_cases ((row_classify hq).symm.trans h)
    · exact (keyed_setRet 32 s).row hq ⟨rfl, rfl⟩ (by decide)
    · exact ((keyed_togglePro s).trans (keyed_setRet _ _)).row hq ⟨rfl, rfl⟩ (by decide)
    · refine ⟨((keyed_resolve s).trans (keyed_setPhase _ _)).toSteady, fun hf => ?_⟩
      constructor <;> simp [hf.level, hf.tone, hq, marking, sounding, indexOf_lt]
  | wordGap =>
    cases (row_wordGap hq).symm.trans h
    exact (keyed_delay _ s).row hq ⟨rfl, rfl⟩ (by decide)
  | load =>
    obtain ⟨b, rfl⟩ := phaseLoad_cases ((row_load hq).symm.trans h)
    exact (keyed_setV b s).row hq ⟨rfl, rfl⟩ (by decide)
  | test =>
    rw [row_test hq, phaseTest] at h
    split at h
    · cases h
      refine ⟨(keyed_setPhase _ s).toSteady, fun hf => ?_⟩
      cases he : s.toneEn <;> constructor <;> simp [hf.level, hf.tone, he, hq, marking, sounding]
    · cases h
      exact (Keyed.refl s).row hq ⟨rfl, rfl⟩ (by split <;> decide)
  | pTon =>
    cases (row_pTon hq).symm.trans h
    refine ⟨(steady_startTone s).trans (keyed_setPhase _ _).toSteady, fun hf => ?_⟩
    constructor <;> simp [hf.level, hf.tonePhases, hq, marking, sounding]
  | pOn =>
    cases (row_pOn hq).symm.trans h
    refine ⟨(steady_driveLevel _ s).trans (keyed_setPhase _ _).toSteady, fun hf => ?_⟩
    constructor <;> simp [activeLevel, hf.tone, hq, marking, sounding]
  | pMark =>
    cases (row_pMark hq).symm.trans h
    refine ⟨((keyed_delay _ s).trans (keyed_setPhase _ _)).toSteady, fun hf => ?_⟩
    constructor <;> simp [hf.level, hf.tone, hq, marking, sounding]
  | pOff =>
    cases (row_pOff hq).symm.trans h
    refine ⟨(steady_driveLevel _ s).trans (keyed_setPhase _ _).toSteady, fun hf => ?_⟩
    cases he : s.toneEn <;> constructor <;> simp [idleLevel, hf.tone, he, hq, marking, sounding]
  | pTof =>
    cases (row_pTof hq).symm.trans h
    refine ⟨(steady_stopTone s).trans (keyed_setPhase _ _).toSteady, fun hf => ?_⟩
    exact phaseFits_resting (by decide) (by simp [hf.level, hq, marking]) rfl
  | pGap =>
    cases (row_pGap hq).symm.trans h
    exact ((keyed_delay _ s).trans (keyed_shiftV _)).row hq ⟨rfl, rfl⟩ (by decide)
  | letterGap =>
    cases (row_letterGap hq).symm.trans h
    exact (keyed_delay _ s).row hq ⟨rfl, rfl⟩ (by decide)
  | done =>
    cases (row_done hq).symm.trans h
    refine ⟨steady_ended s, fun hf => ?_⟩
    exact phaseFits_ended (by simp [hf.level, hq, marking]) (by simp [hf.tone, hq, sounding])

/-! ## The stream -/

/-- What `END` and every character keep, a stream keeps (R125). -/
theorem runStream_keeps {P : State → Prop}
    (hend : ∀ s, s.phase = .fetch → P s → P { s with phase := .idle, inseq := false })
    (hchar : ∀ c s t, s.phase = .fetch → P s → sendCharacter c s = .next t → P t) {bs : List Byte} {s t : State}
    (hp : s.phase = .fetch) (hs : P s) (h : runStream bs s = .next t) : P t := by
  induction bs generalizing s with
  | nil =>
    cases h
    exact hs
  | cons b rest ih =>
    by_cases hb : b = 0
    · rw [hb, runStream_end] at h
      cases h
      exact hend s hp hs
    · obtain ⟨u, hu⟩ := sendCharacter_next b s
      have hPu : P u := hchar b s u hp hs hu
      rw [runStream_byte hb hu] at h
      split at h
      · next hfetch => exact ih hfetch hPu h
      · cases h
        exact hPu

/-! ## The output registers -/

/-- A construction writes the idle level after its `CFG` (R85). -/
theorem outputFollows_construct (pin : PinId) (speed : Wpm) (invert : Bool) (s : State) :
    OutputFollows s (construct pin speed invert s) := by
  rw [construct_eq]
  exact ⟨[.cfg pin, .lvl pin invert], rfl, rfl, fun h => absurd List.mem_cons_self (h pin)⟩

theorem outputFollows_sendCharacter {c : Byte} {s t : State} (h : sendCharacter c s = .next t) : OutputFollows s t := by
  obtain ⟨u, hk, hc⟩ := sendCharacter_closes h
  obtain ⟨hsteady, -⟩ := hc.frame
  exact hk.output.trans hsteady.output

theorem outputFollows_phaseStep {s t : State} (h : phaseStep s = .next t) : OutputFollows s t := by
  by_cases hp : s.phase = .idle
  · obtain rfl | ⟨s', pin, speed, invert, -, hs', rfl⟩ | ⟨-, rest, ⟨c, rfl⟩ | ⟨bs, rfl⟩⟩ := phaseIdle_cases hp h
    · exact .of_same rfl rfl rfl
    · exact hs'.trans (outputFollows_construct pin speed invert s')
    · exact .of_same rfl rfl rfl
    · exact .of_same rfl rfl rfl
  · exact (phaseStep_row hp h).1.output

/-- Settles O50: every operation of the step moves `KEY` and `TONE_ON` with its events, and `OutputFollows` composes. -/
theorem outputRegistersFollowTheTrace : Obligations.OutputRegistersFollowTheTrace := by
  intro s t h
  show OutputFollows s t
  obtain ⟨-, rfl⟩ | hrow | ⟨-, rfl⟩ | ⟨-, c, hc⟩ | ⟨-, -, rest, ⟨c, hc⟩ | ⟨bs, hseq⟩⟩ := step_cases h
  · exact .of_same rfl rfl rfl
  · exact outputFollows_phaseStep hrow
  · exact (keyed_keyElement s).output
  · exact outputFollows_sendCharacter hc
  · have htake : OutputFollows s { s with host := rest, inseq := false } := .of_same rfl rfl rfl
    exact htake.trans (outputFollows_sendCharacter hc)
  · have hstart : OutputFollows s (startStream bs { s with host := rest }) := .of_same rfl rfl rfl
    refine runStream_keeps (P := OutputFollows s) (fun u _ hu => hu.trans ?_) (fun c u v _ hu hc => ?_) rfl hstart hseq
    · exact .of_same rfl rfl rfl
    · exact hu.trans (outputFollows_sendCharacter hc)

/-! ## The invariant -/

theorem Inv.constructed_of_ne_idle {s : State} (h : Inv s) (hp : s.phase ≠ .idle) : s.constructed = true := by
  cases hb : s.constructed with
  | true => rfl
  | false => exact absurd (h.unbuilt hb) hp

theorem Inv.phaseFits {s : State} (h : Inv s) (hb : s.constructed = true) : PhaseFits s :=
  ⟨h.level hb, h.tone hb, h.tonePhases hb, h.between, h.fetching, h.range⟩

/-- In a constructed core what is `Steady` and goes on to a phase that fits keeps the invariant. -/
theorem Inv.of_steady {s t : State} (h : Inv s) (hb : s.constructed = true) (hst : Steady s t)
    (hfits : PhaseFits s → PhaseFits t) : Inv t := by
  have hf := hfits (h.phaseFits hb)
  exact {
    canonical := hst.table ▸ h.canonical
    timing := fun _ => by
      rw [hst.config.eff, hst.config.speed, hst.config.unit, hst.config.dash]
      exact h.timing hb
    level := fun _ => hf.level
    tone := fun _ => hf.tone
    tonePhases := fun _ => hf.tonePhases
    unbuilt := fun hn => absurd (hst.config.constructed.trans hb) (by simp [hn])
    between := hf.between
    fetching := hf.fetching
    range := hf.range }

/-- A construction makes the invariant true, whatever the old core was. -/
theorem inv_construct {s : State} (hw : Memory.wf s.table) (pin : PinId) (speed : Wpm) (invert : Bool) :
    Inv (construct pin speed invert s) := by
  rw [construct_eq]
  exact {
    canonical := hw
    timing := fun _ => ⟨rfl, rfl, rfl⟩
    level := fun _ => by simp [marking]
    tone := fun _ => by simp [sounding]
    tonePhases := fun _ => nofun
    unbuilt := nofun
    between := fun _ => rfl
    fetching := nofun
    range := nofun }

theorem inv_hardwareReset {s : State} (h : Inv s) : Inv (hardwareReset s) where
  canonical := h.canonical
  timing := nofun
  level := nofun
  tone := nofun
  tonePhases := nofun
  unbuilt _ := rfl
  between _ := rfl
  fetching := nofun
  range := nofun

/-- Taking a command from the host keeps the invariant. -/
theorem inv_take {s : State} (h : Inv s) (hp : s.phase = .idle) (rest : List CommandWord) :
    Inv { s with host := rest, inseq := false } :=
  ⟨h.canonical, h.timing, h.level, h.tone, h.tonePhases, h.unbuilt, fun _ => rfl,
    fun hf => Phase.noConfusion (hp.symm.trans hf), h.range⟩

theorem inv_startStream {s : State} (h : Inv s) (hb : s.constructed = true) (hp : s.phase = .idle) (bs : List Byte) :
    Inv (startStream bs s) := by
  refine h.of_steady hb ⟨by constructor <;> rfl, rfl, .of_same rfl rfl rfl⟩ fun hf => ?_
  constructor <;> simp [startStream, hf.level, hf.tone, hp, marking, sounding]

/-- Every row of R127 keeps the invariant. -/
theorem phaseStep_keeps_inv {s t : State} (h : Inv s) (ht : phaseStep s = .next t) : Inv t := by
  by_cases hp : s.phase = .idle
  · obtain rfl | ⟨s', pin, speed, invert, htable, -, rfl⟩ | ⟨hb, rest, ⟨c, rfl⟩ | ⟨bs, rfl⟩⟩ := phaseIdle_cases hp ht
    · exact h
    · exact inv_construct (htable ▸ h.canonical) pin speed invert
    · obtain ⟨hsteady, hfits⟩ := (keyed_latch c { s with host := rest, inseq := false }).row (p := .classify) hp
        ⟨rfl, rfl⟩ (by decide)
      exact (inv_take h hp rest).of_steady hb hsteady hfits
    · exact inv_startStream (inv_take h hp rest) hb hp bs
  · have hb := h.constructed_of_ne_idle hp
    obtain ⟨hsteady, hfits⟩ := phaseStep_row hp ht
    exact h.of_steady hb hsteady hfits

/-- A character sent with the output at rest keeps the invariant. -/
theorem sendCharacter_keeps_inv {c : Byte} {q : Phase} {s t : State} (h : Inv s) (hb : s.constructed = true)
    (hq : s.phase = q) (hrest : marking q = false ∧ sounding q = false) (ht : sendCharacter c s = .next t) : Inv t := by
  obtain ⟨u, hk, hc⟩ := sendCharacter_closes ht
  obtain ⟨hsteady, -⟩ := hc.frame
  refine h.of_steady hb (hk.toSteady.trans hsteady) fun hf => ?_
  obtain ⟨hkey, htone⟩ := hf.atRest hk hq hrest
  obtain rfl | rfl := hc
  · exact phaseFits_ended hkey htone
  · exact phaseFits_resting (by decide) hkey htone

theorem keyElement_keeps_inv {s : State} (h : Inv s) (hp : s.phase = .test) : Inv (keyElement s) := by
  have hphase : setPhase .test (keyElement s) = keyElement s := by
    rw [keyElement_eq]
    simp only [setPhase, hp]
  obtain ⟨hsteady, hfits⟩ := (keyed_keyElement s).row (p := .test) hp ⟨rfl, rfl⟩ (by decide)
  exact hphase ▸ h.of_steady (h.constructed_of_ne_idle (by simp [hp])) hsteady hfits

theorem runStream_keeps_inv {bs : List Byte} {s t : State} (h : Inv s) (hp : s.phase = .fetch)
    (ht : runStream bs s = .next t) : Inv t := by
  refine runStream_keeps (P := Inv) (fun u hfetch hu => ?_) (fun c u v hfetch hu hc => ?_) hp h ht
  · obtain ⟨hsteady, hfits⟩ := endSeq_row hfetch
    exact hu.of_steady (hu.constructed_of_ne_idle (by simp [hfetch])) hsteady hfits
  · exact sendCharacter_keeps_inv hu (hu.constructed_of_ne_idle (by simp [hfetch])) hfetch ⟨rfl, rfl⟩ hc

/-- Settles O42: a reset and a construction make the invariant anew; in a constructed core what a step does is `Steady` and
its last phase fits. -/
theorem stepKeepsInvariant : Obligations.StepKeepsInvariant := by
  intro s t h ht
  obtain ⟨-, rfl⟩ | hrow | ⟨hp, rfl⟩ | ⟨hp, c, hc⟩ | ⟨hp, hb, rest, ⟨c, hc⟩ | ⟨bs, hseq⟩⟩ := step_cases ht
  · exact inv_hardwareReset h
  · exact phaseStep_keeps_inv h hrow
  · exact keyElement_keeps_inv h hp
  · obtain hp | hp := hp <;>
      exact sendCharacter_keeps_inv h (h.constructed_of_ne_idle (by simp [hp])) hp ⟨rfl, rfl⟩ hc
  · exact sendCharacter_keeps_inv (inv_take h hp rest) hb hp ⟨rfl, rfl⟩ hc
  · exact runStream_keeps_inv (inv_startStream (inv_take h hp rest) hb hp bs) rfl hseq

/-- Settles O55: the five values are fields of `State.reset`. -/
theorem resetValues : Obligations.ResetValues := ⟨rfl, rfl, rfl, rfl, rfl⟩

end Sys2Proof.Safety
end

section
/-!
The record of 20_memory.md: no operation writes the table (R30, R36), and a returned byte goes behind those already returned
(R40). Only the end of a character (phase `DONE`) adds to `rsp`; that the trace only grows is part of O50.
-/
namespace Sys2Proof.Safety

open Sys2Proof.Machine

/-- `t` reads the same table as `s`, and the bytes `s` has returned stand at the front of those `t` has returned. -/
structure Retains (s t : State) : Prop where
  table : t.table = s.table
  rsp : s.rsp <+: t.rsp

theorem Retains.trans {s t u : State} (h : Retains s t) (h' : Retains t u) : Retains s u where
  table := h'.table.trans h.table
  rsp := h.rsp.trans h'.rsp

theorem Retains.of_same {s t : State} (htable : t.table = s.table) (hrsp : t.rsp = s.rsp) : Retains s t :=
  ⟨htable, hrsp ▸ List.prefix_rfl⟩

/-! ## Characters -/

theorem Keyed.retains {s t : State} (h : Keyed s t) : Retains s t := .of_same h.table h.rsp

theorem rsp_prefix_ended (s : State) : s.rsp <+: (ended s).rsp := by
  unfold ended
  split
  · exact List.prefix_rfl
  · exact List.prefix_append _ _

theorem retains_ended (s : State) : Retains s (ended s) := ⟨(steady_ended s).table, rsp_prefix_ended s⟩

theorem Closes.retains {u t : State} (h : Closes u t) : Retains u t := by
  obtain rfl | rfl := h
  · exact retains_ended u
  · exact (keyed_setPhase .test u).retains

theorem retains_sendCharacter {c : Byte} {s t : State} (h : sendCharacter c s = .next t) : Retains s t := by
  obtain ⟨u, hk, hc⟩ := sendCharacter_closes h
  exact hk.retains.trans hc.retains

/-! ## Rows of R127 -/

/-- Either form of construction: the tone registers written, then the rest. -/
theorem retains_construct (pin : PinId) (speed : Wpm) (invert toneEn : Bool) (toneCh : ToneId) (freq : Hz) (s : State) :
    Retains s (construct pin speed invert { s with toneEn := toneEn, toneCh := toneCh, toneFreq := freq }) := by
  rw [construct_eq]
  exact .of_same rfl rfl

theorem retains_execConstruct3 {pin : PinId} {speed : Wpm} {invert : Bool} {s t : State}
    (h : execConstruct3 pin speed invert s = .next t) : Retains s t := by
  unfold execConstruct3 at h
  split at h
  · cases h
    exact retains_construct ..
  · cases h
    exact .of_same rfl rfl

theorem retains_execConstruct5 {pin : PinId} {speed : Wpm} {toneCh : ToneId} {freq : Hz} {invert : Bool} {s t : State}
    (h : execConstruct5 pin speed toneCh freq invert s = .next t) : Retains s t := by
  unfold execConstruct5 at h
  split at h
  · cases h
    exact retains_construct ..
  · cases h
    exact .of_same rfl rfl

theorem retains_phaseIdle {s t : State} (h : phaseIdle s = .next t) : Retains s t := by
  unfold phaseIdle at h
  split at h
  · cases h
    exact .of_same rfl rfl
  next k rest _ =>
  have htake : Retains s { s with host := rest } := .of_same rfl rfl
  split at h
  · exact htake.trans (retains_execConstruct3 h)
  split at h
  · exact htake.trans (retains_execConstruct5 h)
  split at h
  · cases h
    exact .of_same rfl rfl
  split at h <;>
  · cases h
    exact .of_same rfl rfl

/-- In a running command only phase `DONE` returns a byte (R123, R127). -/
theorem phaseStep_rsp_same {s t : State} (hidle : s.phase ≠ .idle) (hdone : s.phase ≠ .done)
    (h : phaseStep s = .next t) : t.rsp = s.rsp := by
  cases hq : s.phase with
  | idle => exact absurd hq hidle
  | done => exact absurd hq hdone
  | fetch => obtain rfl | rfl | ⟨b, rfl⟩ := phaseFetch_cases ((row_fetch hq).symm.trans h) <;> rfl
  | classify => obtain rfl | rfl | rfl := phaseClassify_cases ((row_classify hq).symm.trans h) <;> rfl
  | load =>
    obtain ⟨b, rfl⟩ := phaseLoad_cases ((row_load hq).symm.trans h)
    rfl
  | test =>
    rw [row_test hq, phaseTest] at h
    split at h <;> cases h <;> rfl
  | wordGap => cases (row_wordGap hq).symm.trans h; rfl
  | pTon => cases (row_pTon hq).symm.trans h; rfl
  | pOn => cases (row_pOn hq).symm.trans h; rfl
  | pMark => cases (row_pMark hq).symm.trans h; rfl
  | pOff => cases (row_pOff hq).symm.trans h; rfl
  | pTof => cases (row_pTof hq).symm.trans h; rfl
  | pGap => cases (row_pGap hq).symm.trans h; rfl
  | letterGap => cases (row_letterGap hq).symm.trans h; rfl

theorem retains_phaseStep {s t : State} (h : phaseStep s = .next t) : Retains s t := by
  by_cases hidle : s.phase = .idle
  · exact retains_phaseIdle ((row_idle hidle).symm.trans h)
  by_cases hdone : s.phase = .done
  · cases (row_done hdone).symm.trans h
    exact retains_ended s
  · exact .of_same (phaseStep_row hidle h).1.table (phaseStep_rsp_same hidle hdone h)

/-! ## Streams and steps -/

theorem retains_runStream {bs : List Byte} {s t : State} (hp : s.phase = .fetch) (h : runStream bs s = .next t) :
    Retains s t :=
  runStream_keeps (P := Retains s) (fun _ _ hu => hu.trans (.of_same rfl rfl))
    (fun _ _ _ _ hu hc => hu.trans (retains_sendCharacter hc)) hp (.of_same rfl rfl) h

theorem retains_hardwareReset (s : State) : Retains s (hardwareReset s) := .of_same rfl rfl

theorem retains_step {s t : State} (h : step s = .next t) : Retains s t := by
  obtain ⟨-, rfl⟩ | hrow | ⟨-, rfl⟩ | ⟨-, c, hc⟩ | ⟨-, -, rest, ⟨c, hc⟩ | ⟨bs, hseq⟩⟩ := step_cases h
  · exact retains_hardwareReset s
  · exact retains_phaseStep hrow
  · exact (keyed_keyElement s).retains
  · exact retains_sendCharacter hc
  · have htake : Retains s { s with host := rest, inseq := false } := .of_same rfl rfl
    exact htake.trans (retains_sendCharacter hc)
  · have hstart : Retains s (startStream bs { s with host := rest }) := .of_same rfl rfl
    exact hstart.trans (retains_runStream rfl hseq)

/-- Settles O48: every operation a step is made of leaves the table alone. -/
theorem tableNeverChanges : Obligations.TableNeverChanges := fun _ _ h => (retains_step h).table

/-- Settles O49: the events a step adds are those of O50; a byte is returned only behind the others. -/
theorem traceOnlyGrows : Obligations.TraceOnlyGrows := by
  intro s t h
  obtain ⟨evs, htrace, -⟩ := outputRegistersFollowTheTrace s t h
  exact ⟨⟨evs, htrace.symm⟩, (retains_step h).rsp⟩

end Sys2Proof.Safety
end

section
/-!
The encodings of 30_encoding.md: which instruction `decodeChar` reads at each code (R47, R51), that encoding and
decoding undo each other, and that every instruction runs to a next state. From it O1, O2, O3, O27 and O44.
-/
namespace Sys2Proof

open Machine

/-! ## Class by class, the code that decodes to it -/

theorem decodeChar_ctrl {c : Byte} (h : c ≤ 0x1F) : decodeChar c = .ctrl c := by
  have hsp : c ≠ 0x20 := by bv_omega
  have hopen : c ≠ 0x3C := by bv_omega
  have hclose : c ≠ 0x3E := by bv_omega
  simp only [decodeChar, hsp, hopen, hclose, h, if_true, if_false]

theorem decodeChar_sym {c : Byte} (hlo : 0x21 ≤ c) (hhi : c ≤ 0x60) (hopen : c ≠ 0x3C) (hclose : c ≠ 0x3E) :
    decodeChar c = .sym c := by
  have hsp : c ≠ 0x20 := by bv_omega
  have hctrl : ¬ c ≤ 0x1F := by bv_omega
  simp only [decodeChar, hsp, hopen, hclose, hctrl, hhi, if_true, if_false]

/-- Above the base codes the space, the delimiters and the control codes are out of the way. -/
theorem decodeChar_above {c : Byte} (h : 0x61 ≤ c) :
    decodeChar c =
      if c ≤ 0x7A then .low c
      else if c ≤ 0xDF then if accentCodes.contains c then .acc c else .oor c
      else if accentCodes.contains (c - 0x20) then .accl c else .oorf c := by
  have hsp : c ≠ 0x20 := by bv_omega
  have hopen : c ≠ 0x3C := by bv_omega
  have hclose : c ≠ 0x3E := by bv_omega
  have hctrl : ¬ c ≤ 0x1F := by bv_omega
  have hsym : ¬ c ≤ 0x60 := by bv_omega
  simp only [decodeChar, hsp, hopen, hclose, hctrl, hsym, if_false]

theorem decodeChar_low {c : Byte} (hlo : 0x61 ≤ c) (hhi : c ≤ 0x7A) : decodeChar c = .low c := by
  rw [decodeChar_above hlo, if_pos hhi]

/-- From `0x7B` to `0xDF` the accented codes are `ACC` and the others are `OOR`. -/
theorem decodeChar_upper {c : Byte} (hlo : 0x7B ≤ c) (hhi : c ≤ 0xDF) :
    decodeChar c = if accentedUpper.contains c then .acc c else .oor c := by
  have hlow : ¬ c ≤ 0x7A := by bv_omega
  rw [decodeChar_above (by bv_omega), if_neg hlow, if_pos hhi]
  rfl

/-- The lowercase accented codes are the accented codes 32 higher (R47). -/
theorem contains_accentedLower (c : Byte) : accentedLower.contains c = accentCodes.contains (c - 0x20) := by
  have hmap : accentedLower = accentCodes.map (· + 0x20) := by decide
  rw [Bool.eq_iff_iff, List.contains_iff_mem, List.contains_iff_mem, hmap, List.mem_map]
  constructor
  · rintro ⟨x, hx, rfl⟩
    rwa [BitVec.add_sub_cancel]
  · exact fun hmem => ⟨c - 0x20, hmem, BitVec.sub_add_cancel c 0x20⟩

/-- From `0xE0` up the lowercase accented codes are `ACCL` and the others are `OORF`. -/
theorem decodeChar_upperFolded {c : Byte} (hlo : 0xE0 ≤ c) :
    decodeChar c = if accentedLower.contains c then .accl c else .oorf c := by
  have hlow : ¬ c ≤ 0x7A := by bv_omega
  have hoor : ¬ c ≤ 0xDF := by bv_omega
  rw [decodeChar_above (by bv_omega), if_neg hlow, if_neg hoor, contains_accentedLower]

theorem accentedUpper_range {c : Byte} (h : accentedUpper.contains c = true) : 0x7B ≤ c ∧ c ≤ 0xDF := by
  have hall : ∀ x ∈ accentedUpper, 0x7B ≤ x ∧ x ≤ 0xDF := by decide
  exact hall c (List.contains_iff_mem.mp h)

theorem accentedLower_range {c : Byte} (h : accentedLower.contains c = true) : 0xE0 ≤ c := by
  have hall : ∀ x ∈ accentedLower, 0xE0 ≤ x := by decide
  exact hall c (List.contains_iff_mem.mp h)

/-! ## Decoding and encoding undo each other -/

/-- Settles O1: each class at the codes `wellFormed` gives it, each command by its selector, each element by its bit. -/
theorem decodeOfEncode : Obligations.DecodeOfEncode := by
  intro i h
  cases i with
  | ctrl c => exact decodeChar_ctrl (of_decide_eq_true h)
  | sym c =>
    simp only [wellFormed, Bool.and_eq_true, decide_eq_true_eq] at h
    obtain ⟨⟨⟨hlo, hhi⟩, hopen⟩, hclose⟩ := h
    exact decodeChar_sym hlo hhi hopen hclose
  | low c =>
    simp only [wellFormed, Bool.and_eq_true, decide_eq_true_eq] at h
    obtain ⟨hlo, hhi⟩ := h
    exact decodeChar_low hlo hhi
  | oor c =>
    simp only [wellFormed, Bool.and_eq_true, decide_eq_true_eq, Bool.not_eq_true'] at h
    obtain ⟨⟨hlo, hhi⟩, hplain⟩ := h
    exact (decodeChar_upper hlo hhi).trans (by rw [hplain]; rfl)
  | acc c =>
    obtain ⟨hlo, hhi⟩ := accentedUpper_range h
    exact (decodeChar_upper hlo hhi).trans (if_pos h)
  | oorf c =>
    simp only [wellFormed, Bool.and_eq_true, decide_eq_true_eq, Bool.not_eq_true'] at h
    obtain ⟨hlo, hplain⟩ := h
    exact (decodeChar_upperFolded hlo).trans (by rw [hplain]; rfl)
  | accl c => exact (decodeChar_upperFolded (accentedLower_range h)).trans (if_pos h)
  | sp | proOpen | proClose | construct3 | construct5 | sendChar | sendSeq | dot | dash | endSeq => rfl

theorem encode_decodeChar (c : Byte) : encode (decodeChar c) = .charWord c := by
  unfold decodeChar
  split
  · next hsp => exact congrArg Encoded.charWord hsp.symm
  split
  · next hopen => exact congrArg Encoded.charWord hopen.symm
  split
  · next hclose => exact congrArg Encoded.charWord hclose.symm
  repeat' split
  all_goals rfl

theorem wellFormed_decodeChar (c : Byte) : wellFormed (decodeChar c) = true := by
  unfold decodeChar
  split
  · rfl
  split
  · rfl
  split
  · rfl
  split
  · next hctrl => exact decide_eq_true hctrl
  split
  · next hsp hopen hclose hctrl hsym =>
    have hlo : 0x21 ≤ c := by bv_omega
    simp only [wellFormed, hlo, hsym, hopen, hclose, ne_eq, not_false_eq_true, decide_true, Bool.and_self]
  split
  · next hsym hlow =>
    have hlo : 0x61 ≤ c := by bv_omega
    simp only [wellFormed, hlo, hlow, decide_true, Bool.and_self]
  split
  · next hlow hoor =>
    split
    · next hacc => exact hacc
    · next hacc =>
      have hlo : 0x7B ≤ c := by bv_omega
      have hplain : accentedUpper.contains c = false := eq_false_of_ne_true hacc
      simp only [wellFormed, hlo, hoor, hplain, decide_true, Bool.not_false, Bool.and_self]
  · next hoor =>
    have hlo : 0xE0 ≤ c := by bv_omega
    split
    · next haccl => exact (contains_accentedLower c).trans haccl
    · next haccl =>
      have hplain : accentedLower.contains c = false := (contains_accentedLower c).trans (eq_false_of_ne_true haccl)
      simp only [wellFormed, hlo, hplain, decide_true, Bool.not_false, Bool.and_self]

/-- Every instruction agrees with the opcode table: its word matches the one row of its mnemonic (R51). -/
theorem rowAgrees : ∀ i : Instr, Laws.RowAgrees.Statement i
  | .ctrl c => Laws.RowAgrees.ctrl c
  | .sp => Laws.RowAgrees.sp
  | .sym c => Laws.RowAgrees.sym c
  | .proOpen => Laws.RowAgrees.proOpen
  | .proClose => Laws.RowAgrees.proClose
  | .low c => Laws.RowAgrees.low c
  | .oor c => Laws.RowAgrees.oor c
  | .acc c => Laws.RowAgrees.acc c
  | .oorf c => Laws.RowAgrees.oorf c
  | .accl c => Laws.RowAgrees.accl c
  | .construct3 pin speed invert => Laws.RowAgrees.construct3 pin speed invert
  | .construct5 pin speed toneCh freq invert => Laws.RowAgrees.construct5 pin speed toneCh freq invert
  | .sendChar c => Laws.RowAgrees.sendChar c
  | .sendSeq stream => Laws.RowAgrees.sendSeq stream
  | .dot => Laws.RowAgrees.dot
  | .dash => Laws.RowAgrees.dash
  | .endSeq => Laws.RowAgrees.endSeq

/-- Settles O2: what a word decodes to is well-formed and encodes back to it, and such an instruction agrees with the
table. -/
theorem characterRowsPartitionTheWords : Obligations.CharacterRowsPartitionTheWords := fun c =>
  have hwf := wellFormed_decodeChar c
  have hword := encode_decodeChar c
  ⟨rowAgrees (decodeChar c) hwf c hword, hwf, hword⟩

/-- Settles O3: fixed words, evaluated. -/
theorem specWordsDecode : Obligations.SpecWordsDecode := by
  unfold Obligations.SpecWordsDecode
  decide

/-! ## What the decoded instruction does -/

/-- Settles O27: an idle, constructed core admits the command, and R110 run on a character is its class. -/
theorem sendCharRunsTheClass : Obligations.SendCharRunsTheClass := by
  intro s c hidle hbuilt
  have hadmits : admitsSend s = true := by simp [admitsSend, hidle, hbuilt]
  calc exec (.sendChar c) s
    _ = execSendChar c s := rfl
    _ = sendCharacter c { s with inseq := false } := execSendChar_taken hadmits
    _ = exec (decodeChar c) { s with inseq := false } := (exec_char c _).symm

/-- A stream always ends in a next state, with a terminator or without one (R125, R170). -/
theorem runStream_next (bs : List Byte) (s : State) : ∃ t, runStream bs s = .next t := by
  induction bs generalizing s with
  | nil => exact ⟨s, rfl⟩
  | cons b rest ih =>
    by_cases hend : b = 0
    · exact ⟨_, hend ▸ runStream_end rest s⟩
    · obtain ⟨u, hu⟩ := sendCharacter_next b s
      rw [runStream_byte hend hu]
      split
      · exact ih u
      · exact ⟨u, rfl⟩

theorem execSendChar_next (c : Byte) (s : State) : ∃ t, execSendChar c s = .next t := by
  cases hadmits : admitsSend s with
  | false => exact ⟨s, execSendChar_held hadmits⟩
  | true =>
    rw [execSendChar_taken hadmits]
    exact sendCharacter_next c _

theorem execSendSeq_next (bs : List Byte) (s : State) : ∃ t, execSendSeq bs s = .next t := by
  cases hadmits : admitsSend s with
  | false => exact ⟨s, execSendSeq_held hadmits⟩
  | true =>
    rw [execSendSeq_taken hadmits]
    exact runStream_next bs _

/-- An outcome that is chosen between taking and holding a command is a next state (R89). -/
theorem takenOrHeld_next (admitted : Bool) (taken held : State) :
    ∃ t, (if admitted then .next taken else .next held : Outcome) = .next t := by
  cases admitted with
  | false => exact ⟨held, rfl⟩
  | true => exact ⟨taken, rfl⟩

/-- Settles O44: a look-up reads inside the table, a command is taken or held, a stream ends or waits, and the other
instructions are next states as they are written. -/
theorem everyInstructionAnswersANextState : Obligations.EveryInstructionAnswersANextState := by
  intro i s
  cases i with
  | ctrl c | sym c | low c | oor c | acc c | oorf c | accl c => exact ⟨_, lookUpAndKey_next c s⟩
  | sp | proOpen | proClose | dot | dash | endSeq => exact ⟨_, rfl⟩
  | construct3 | construct5 => exact takenOrHeld_next (admitsConstruct s) _ s
  | sendChar c => exact execSendChar_next c s
  | sendSeq bs => exact execSendSeq_next bs s

end Sys2Proof
end

section
/-!
Normalisation and the index of a character (40_morse_encoder.md R60 to R67): a code and its lowercase code normalise
alike, so they are sent alike (R74), and the index before the clamp, class by class (R75). From it O21, O22 and O59.
-/
namespace Sys2Proof.Machine

open Sys2Proof.Safety

/-! ## Normalisation -/

/-- The codes that folding moves (R60). -/
abbrev Lowercase (c : Byte) : Prop := (97 ≤ c ∧ c ≤ 122) ∨ 224 ≤ c

theorem lowercase_iff {c : Byte} : Lowercase c ↔ (97 ≤ c.toNat ∧ c.toNat ≤ 122) ∨ 224 ≤ c.toNat := Iff.rfl

/-- The code 32 below a lowercase code is a base code that folding leaves alone. -/
theorem sub_of_lowercase {c : Byte} (h : Lowercase c) :
    97 ≤ c ∧ 65 ≤ c - 32 ∧ (c - 32).toNat = c.toNat - 32 ∧ ¬ Lowercase (c - 32) := by
  rw [lowercase_iff] at h ⊢
  bv_omega

theorem normalise_control {c : Byte} (h : c ≤ 0x1F) : normalise c = 35 := by
  have hfold : ¬ Lowercase c := by
    rw [lowercase_iff]
    bv_omega
  have hctrl : c < 33 := by bv_omega
  rw [normalise, fold, if_neg hfold, subst, if_pos hctrl, placeholder]

theorem normalise_uppercase {c : Byte} (hlo : 33 ≤ c) (h : ¬ Lowercase c) : normalise c = c := by
  have hctrl : ¬ c < 33 := by bv_omega
  rw [normalise, fold, if_neg h, subst, if_neg hctrl]

theorem normalise_lowercase {c : Byte} (h : Lowercase c) : normalise c = c - 32 := by
  obtain ⟨-, hbase, -, -⟩ := sub_of_lowercase h
  have hctrl : ¬ c - 32 < 33 := by bv_omega
  rw [normalise, fold, if_pos h, subst, if_neg hctrl]

/-- Folding again does nothing: the code 32 below a lowercase code is no lowercase code. -/
theorem normalise_sub_of_lowercase {c : Byte} (h : Lowercase c) : normalise (c - 32) = normalise c := by
  obtain ⟨-, hbase, -, hplain⟩ := sub_of_lowercase h
  have hupper : normalise (c - 32) = c - 32 := normalise_uppercase (by bv_omega) hplain
  rw [hupper, normalise_lowercase h]

/-! ## A character is sent by its normalised code -/

theorem resolve_latch_congr {c d : Byte} (h : normalise c = normalise d) (s : State) :
    resolve (latch c s) = resolve (latch d s) := by
  simp only [resolve, latch, indexOf, offsetOf, returnOf, h]

theorem lookUpAndKey_congr {c d : Byte} (h : normalise c = normalise d) (s : State) :
    lookUpAndKey c s = lookUpAndKey d s := by
  rw [lookUpAndKey, lookUpAndKey, resolve_latch_congr h]

theorem sendCharacter_lookUp {c : Byte} (hsp : c ≠ 32) (hopen : c ≠ 60) (hclose : c ≠ 62) (s : State) :
    sendCharacter c s = lookUpAndKey c s := by
  rw [sendCharacter, if_neg hsp, if_neg hopen, if_neg hclose]

theorem sendCharacter_sub_of_lowercase {c : Byte} (h : Lowercase c) (s : State) :
    sendCharacter c s = sendCharacter (c - 32) s := by
  obtain ⟨hc, hbase, -, -⟩ := sub_of_lowercase h
  rw [sendCharacter_lookUp (by bv_omega) (by bv_omega) (by bv_omega),
    sendCharacter_lookUp (by bv_omega) (by bv_omega) (by bv_omega)]
  exact lookUpAndKey_congr (normalise_sub_of_lowercase h).symm s

/-- `SEND_CHAR` knows its operand only through the machine of R110. -/
theorem execSendChar_congr {c d : Byte} (h : ∀ s, sendCharacter c s = sendCharacter d s) (s : State) :
    execSendChar c s = execSendChar d s := by
  rw [execSendChar, execSendChar, h]

/-- Settles O21: both codes are looked up, and by the same normalised code. -/
theorem caseLaw : Obligations.CaseLaw := by
  intro s c hc
  have hsend := sendCharacter_sub_of_lowercase hc
  constructor
  · rw [exec_char, exec_char, hsend]
  · exact execSendChar_congr hsend s

/-! ## The class of a code -/

/-- The character instructions that the word `c` can stand for, one per class (R47). -/
def charInstrs (c : Byte) : List Instr :=
  [.ctrl c, .sp, .sym c, .proOpen, .proClose, .low c, .oor c, .acc c, .oorf c, .accl c]

theorem mem_charInstrs {i : Instr} {c : Byte} (he : encode i = .charWord c) : i ∈ charInstrs c := by
  cases i <;> simp_all [encode, charInstrs]

theorem decodeChar_mem_charInstrs (c : Byte) : decodeChar c ∈ charInstrs c :=
  mem_charInstrs (encode_decodeChar c)

/-- Among the instructions that a word can stand for, the mnemonic finds the instruction. -/
theorem find_mnemonic_charInstrs {i : Instr} {c : Byte} (h : i ∈ charInstrs c) :
    (charInstrs c).find? (fun j => mnemonic j == mnemonic i) = some i := by
  simp only [charInstrs, List.mem_cons, List.not_mem_nil, or_false] at h
  rcases h with rfl | rfl | rfl | rfl | rfl | rfl | rfl | rfl | rfl | rfl <;> rfl

theorem eq_of_mnemonic_eq {i j : Instr} {c : Byte} (hi : i ∈ charInstrs c) (hj : j ∈ charInstrs c)
    (h : mnemonic i = mnemonic j) : i = j := by
  have hfind := find_mnemonic_charInstrs hi
  rw [h, find_mnemonic_charInstrs hj] at hfind
  exact (Option.some.inj hfind).symm

/-- A code is of the class of the instruction that is well-formed on it. -/
theorem mnemonic_decodeChar_iff {i : Instr} {c : Byte} (he : encode i = .charWord c) :
    mnemonic (decodeChar c) = mnemonic i ↔ wellFormed i = true := by
  constructor
  · intro h
    have hi : decodeChar c = i :=
      eq_of_mnemonic_eq (decodeChar_mem_charInstrs c) (mem_charInstrs he) h
    exact hi ▸ wellFormed_decodeChar c
  · intro hwf
    have hi := decodeOfEncode i hwf
    rw [he] at hi
    exact congrArg mnemonic hi

theorem mnemonic_ctrl_iff (c : Byte) : mnemonic (decodeChar c) = "CTRL" ↔ wellFormed (.ctrl c) = true :=
  mnemonic_decodeChar_iff (i := .ctrl c) rfl

theorem mnemonic_sym_iff (c : Byte) : mnemonic (decodeChar c) = "SYM" ↔ wellFormed (.sym c) = true :=
  mnemonic_decodeChar_iff (i := .sym c) rfl

theorem mnemonic_low_iff (c : Byte) : mnemonic (decodeChar c) = "LOW" ↔ wellFormed (.low c) = true :=
  mnemonic_decodeChar_iff (i := .low c) rfl

theorem mnemonic_oor_iff (c : Byte) : mnemonic (decodeChar c) = "OOR" ↔ wellFormed (.oor c) = true :=
  mnemonic_decodeChar_iff (i := .oor c) rfl

theorem mnemonic_acc_iff (c : Byte) : mnemonic (decodeChar c) = "ACC" ↔ wellFormed (.acc c) = true :=
  mnemonic_decodeChar_iff (i := .acc c) rfl

theorem mnemonic_oorf_iff (c : Byte) : mnemonic (decodeChar c) = "OORF" ↔ wellFormed (.oorf c) = true :=
  mnemonic_decodeChar_iff (i := .oorf c) rfl

theorem mnemonic_accl_iff (c : Byte) : mnemonic (decodeChar c) = "ACCL" ↔ wellFormed (.accl c) = true :=
  mnemonic_decodeChar_iff (i := .accl c) rfl

theorem decodeChar_ne {i : Instr} {c d : Byte} (he : encode i = .charWord d) (h : c ≠ d) : decodeChar c ≠ i := by
  rintro rfl
  exact h (Encoded.charWord.inj ((encode_decodeChar c).symm.trans he))

/-- Seven of the ten classes are looked up. -/
theorem mnemonic_lookUp {c : Byte} (hsp : c ≠ 32) (hopen : c ≠ 60) (hclose : c ≠ 62) :
    mnemonic (decodeChar c) ∈ ["CTRL", "SYM", "LOW"] ∨ mnemonic (decodeChar c) ∈ ["ACC", "ACCL"] ∨
    mnemonic (decodeChar c) = "OOR" ∨ mnemonic (decodeChar c) = "OORF" := by
  have hnsp : decodeChar c ≠ .sp := decodeChar_ne rfl hsp
  have hnopen : decodeChar c ≠ .proOpen := decodeChar_ne rfl hopen
  have hnclose : decodeChar c ≠ .proClose := decodeChar_ne rfl hclose
  have hmem := decodeChar_mem_charInstrs c
  simp only [charInstrs, List.mem_cons, List.not_mem_nil, or_false, hnsp, hnopen, hnclose, false_or] at hmem
  rcases hmem with h | h | h | h | h | h | h <;> simp [h, mnemonic]

/-! ## The index before the clamp, class by class -/

/-- The index of the character `c` before the clamp (R62, R66). -/
def rawIndexOf (c : Byte) : Nat := (rawIndex (normalise c) (accentOffset (normalise c))).toNat

theorem indexOf_toNat (c : Byte) : (indexOf c).toNat = if 70 < rawIndexOf c then 2 else rawIndexOf c := by
  rw [indexOf, clampIndex, apply_ite BitVec.toNat]
  rfl

theorem accentOffset_plain {c : Byte} (h : accentedUpper.contains c = false) : accentOffset c = 0 := by
  simp only [accentedUpper, List.contains_cons, List.contains_nil, Bool.or_false, Bool.or_eq_false_iff,
    beq_eq_false_iff_ne] at h
  simp only [accentOffset, h, if_false]

/-- The distances from `!` of the accented codes: what R75 leaves out of the indices of the codes out of range. -/
def accentedDistances : List Nat := [160, 168, 172, 176, 178, 185, 187]

theorem contains_accentedUpper_iff {c : Byte} :
    accentedUpper.contains c = true ↔ c.toNat - 33 ∈ accentedDistances := by
  simp only [accentedUpper, accentedDistances, List.contains_iff_mem, List.mem_cons, List.not_mem_nil, or_false]
  bv_omega

theorem not_mem_accentedDistances {n : Nat} (h : n < 160) : n ∉ accentedDistances := by
  have hall : ∀ d ∈ accentedDistances, 160 ≤ d := by decide
  exact fun hn => absurd (hall n hn) (by omega)

/-- A base code that is not accented has its distance from `!` as index (R62). -/
theorem rawIndexOf_plain {c d : Byte} (hc : normalise c = d) (hlo : 33 ≤ d.toNat)
    (hd : d.toNat - 33 ∉ accentedDistances) : rawIndexOf c = d.toNat - 33 := by
  have hplain : accentedUpper.contains d = false := eq_false_of_ne_true (mt contains_accentedUpper_iff.mp hd)
  rw [rawIndexOf, hc, accentOffset_plain hplain, rawIndex]
  bv_omega

theorem rawIndexOf_uppercase {c : Byte} (hlo : 33 ≤ c.toNat) (hupper : ¬ Lowercase c)
    (hd : c.toNat - 33 ∉ accentedDistances) : rawIndexOf c = c.toNat - 33 :=
  rawIndexOf_plain (normalise_uppercase hlo hupper) hlo hd

/-- A lowercase code has the index of the code 32 below it. -/
theorem rawIndexOf_lowercase {c : Byte} (h : Lowercase c) (hd : c.toNat - 65 ∉ accentedDistances) :
    rawIndexOf c = c.toNat - 65 := by
  obtain ⟨hc, -, hsub, -⟩ := sub_of_lowercase h
  have hdist : (c - 32).toNat - 33 = c.toNat - 65 := by omega
  rw [← hdist] at hd ⊢
  exact rawIndexOf_plain (normalise_lowercase h) (by bv_omega) hd

/-- The accented codes have the slots 64 to 69 (R65). -/
theorem rawIndexOf_accented {c : Byte} (h : accentedUpper.contains (normalise c) = true) :
    64 ≤ rawIndexOf c ∧ rawIndexOf c ≤ 69 := by
  have hall : ∀ x ∈ accentedUpper,
      64 ≤ (rawIndex x (accentOffset x)).toNat ∧ (rawIndex x (accentOffset x)).toNat ≤ 69 := by decide
  exact hall _ (List.contains_iff_mem.mp h)

theorem normalise_acc {c : Byte} (h : wellFormed (.acc c) = true) : normalise c = c := by
  obtain ⟨hlo, hhi⟩ := accentedUpper_range h
  exact normalise_uppercase (by bv_omega) (by rw [lowercase_iff]; bv_omega)

theorem normalise_accl {c : Byte} (h : wellFormed (.accl c) = true) : normalise c = c - 32 :=
  normalise_lowercase (.inr (accentedLower_range h))

theorem rawIndexOf_ctrl {c : Byte} (h : wellFormed (.ctrl c) = true) : rawIndexOf c = 2 :=
  rawIndexOf_plain (normalise_control (of_decide_eq_true h)) (by decide) (by decide)

theorem wellFormed_sym_iff {c : Byte} :
    wellFormed (.sym c) = true ↔ 33 ≤ c.toNat ∧ c.toNat ≤ 96 ∧ c.toNat ≠ 60 ∧ c.toNat ≠ 62 := by
  simp only [wellFormed, Bool.and_eq_true, decide_eq_true_eq]
  bv_omega

theorem rawIndexOf_sym {c : Byte} (h : wellFormed (.sym c) = true) : rawIndexOf c = c.toNat - 33 := by
  obtain ⟨hlo, hhi, -, -⟩ := wellFormed_sym_iff.mp h
  exact rawIndexOf_uppercase hlo (by rw [lowercase_iff]; omega) (not_mem_accentedDistances (by omega))

theorem wellFormed_low_iff {c : Byte} : wellFormed (.low c) = true ↔ 97 ≤ c.toNat ∧ c.toNat ≤ 122 := by
  simp only [wellFormed, Bool.and_eq_true, decide_eq_true_eq]
  exact Iff.rfl

theorem rawIndexOf_low {c : Byte} (h : wellFormed (.low c) = true) : rawIndexOf c = c.toNat - 65 := by
  obtain ⟨hlo, hhi⟩ := wellFormed_low_iff.mp h
  exact rawIndexOf_lowercase (.inl ⟨hlo, hhi⟩) (not_mem_accentedDistances (by omega))

theorem wellFormed_oor_iff {c : Byte} :
    wellFormed (.oor c) = true ↔
      90 ≤ c.toNat - 33 ∧ c.toNat - 33 ≤ 190 ∧ c.toNat - 33 ∉ accentedDistances := by
  simp only [wellFormed, Bool.and_eq_true, decide_eq_true_eq, Bool.not_eq_true', ← Bool.not_eq_true,
    contains_accentedUpper_iff, and_assoc]
  exact and_congr (by bv_omega) (and_congr_left' (by bv_omega))

theorem rawIndexOf_oor {c : Byte} (h : wellFormed (.oor c) = true) : rawIndexOf c = c.toNat - 33 := by
  obtain ⟨hlo, hhi, hd⟩ := wellFormed_oor_iff.mp h
  exact rawIndexOf_uppercase (by omega) (by rw [lowercase_iff]; omega) hd

theorem contains_accentedLower_iff {c : Byte} (h : 0xE0 ≤ c) :
    accentedLower.contains c = true ↔ c.toNat - 65 ∈ accentedDistances := by
  have hdist : (c - 32).toNat - 33 = c.toNat - 65 := by bv_omega
  rw [contains_accentedLower, ← hdist]
  exact contains_accentedUpper_iff

theorem wellFormed_oorf_iff {c : Byte} :
    wellFormed (.oorf c) = true ↔
      159 ≤ c.toNat - 65 ∧ c.toNat - 65 ≤ 190 ∧ c.toNat - 65 ∉ accentedDistances := by
  simp only [wellFormed, Bool.and_eq_true, decide_eq_true_eq, Bool.not_eq_true', ← Bool.not_eq_true]
  constructor
  · rintro ⟨hlo, hplain⟩
    exact ⟨by bv_omega, by bv_omega, mt (contains_accentedLower_iff hlo).mpr hplain⟩
  · rintro ⟨hlo, -, hd⟩
    have hcode : 0xE0 ≤ c := by bv_omega
    exact ⟨hcode, mt (contains_accentedLower_iff hcode).mp hd⟩

theorem rawIndexOf_oorf {c : Byte} (h : wellFormed (.oorf c) = true) : rawIndexOf c = c.toNat - 65 := by
  obtain ⟨hlo, hhi, hd⟩ := wellFormed_oorf_iff.mp h
  exact rawIndexOf_lowercase (.inr (by bv_omega)) hd

/-! ## The indices of each class -/

/-- The indices of a class of codes that lie `k` above their index. -/
theorem exists_rawIndexOf_iff {P : Byte → Prop} {Q : Nat → Prop} {k : Nat} (hP : ∀ c, P c ↔ Q (c.toNat - k))
    (hraw : ∀ c, P c → rawIndexOf c = c.toNat - k) (hQ : ∀ n, Q n → n + k < 256) (n : Nat) :
    (∃ c, P c ∧ rawIndexOf c = n) ↔ Q n := by
  constructor
  · rintro ⟨c, hc, rfl⟩
    rw [hraw c hc]
    exact (hP c).mp hc
  · intro hn
    have hcode : (BitVec.ofNat 8 (n + k)).toNat - k = n := by
      rw [BitVec.toNat_ofNat, Nat.mod_eq_of_lt (hQ n hn), Nat.add_sub_cancel]
    have hc : P (BitVec.ofNat 8 (n + k)) := (hP _).mpr (by rwa [hcode])
    exact ⟨_, hc, (hraw _ hc).trans hcode⟩

theorem exists_rawIndexOf_oor_iff (n : Nat) :
    (∃ c, mnemonic (decodeChar c) = "OOR" ∧ rawIndexOf c = n) ↔ 90 ≤ n ∧ n ≤ 190 ∧ n ∉ accentedDistances := by
  simp only [mnemonic_oor_iff]
  exact exists_rawIndexOf_iff (Q := fun n => 90 ≤ n ∧ n ≤ 190 ∧ n ∉ accentedDistances)
    (fun _ => wellFormed_oor_iff) (fun _ => rawIndexOf_oor) (fun n ⟨_, hhi, _⟩ => by omega) n

theorem exists_rawIndexOf_oorf_iff (n : Nat) :
    (∃ c, mnemonic (decodeChar c) = "OORF" ∧ rawIndexOf c = n) ↔ 159 ≤ n ∧ n ≤ 190 ∧ n ∉ accentedDistances := by
  simp only [mnemonic_oorf_iff]
  exact exists_rawIndexOf_iff (Q := fun n => 159 ≤ n ∧ n ≤ 190 ∧ n ∉ accentedDistances)
    (fun _ => wellFormed_oorf_iff) (fun _ => rawIndexOf_oorf) (fun n ⟨_, hhi, _⟩ => by omega) n

theorem exists_rawIndexOf_accented_iff (n : Nat) :
    (∃ c, mnemonic (decodeChar c) ∈ ["ACC", "ACCL"] ∧ rawIndexOf c = n) ↔ 64 ≤ n ∧ n ≤ 69 := by
  simp only [List.mem_cons, List.not_mem_nil, or_false, mnemonic_acc_iff, mnemonic_accl_iff]
  constructor
  · rintro ⟨c, hacc | haccl, rfl⟩
    · exact rawIndexOf_accented ((normalise_acc hacc).symm ▸ hacc)
    · have hcode : accentedUpper.contains (c - 32) = true := (contains_accentedLower c).symm.trans haccl
      exact rawIndexOf_accented ((normalise_accl haccl).symm ▸ hcode)
  · rintro ⟨hlo, hhi⟩
    have hslots : ∀ k < 6, ∃ x ∈ accentedUpper, (rawIndex x (accentOffset x)).toNat = 64 + k := by decide
    obtain ⟨x, hx, hslot⟩ := hslots (n - 64) (by omega)
    have hacc : wellFormed (.acc x) = true := List.contains_iff_mem.mpr hx
    refine ⟨x, .inl hacc, ?_⟩
    rw [rawIndexOf, normalise_acc hacc, hslot]
    omega

theorem exists_rawIndexOf_base_iff (n : Nat) :
    (∃ c, mnemonic (decodeChar c) ∈ ["CTRL", "SYM", "LOW"] ∧ rawIndexOf c = n) ↔
      n ≤ 26 ∨ n = 28 ∨ (30 ≤ n ∧ n ≤ 63) := by
  simp only [List.mem_cons, List.not_mem_nil, or_false, mnemonic_ctrl_iff, mnemonic_sym_iff, mnemonic_low_iff]
  constructor
  · rintro ⟨c, hctrl | hsym | hlow, rfl⟩
    · rw [rawIndexOf_ctrl hctrl]
      decide
    · have hcode := wellFormed_sym_iff.mp hsym
      rw [rawIndexOf_sym hsym]
      omega
    · have hcode := wellFormed_low_iff.mp hlow
      rw [rawIndexOf_low hlow]
      omega
  · intro hn
    have hcode : (BitVec.ofNat 8 (n + 33)).toNat = n + 33 := by
      rw [BitVec.toNat_ofNat]
      omega
    have hsym : wellFormed (.sym (BitVec.ofNat 8 (n + 33))) = true := wellFormed_sym_iff.mpr (by omega)
    refine ⟨_, .inr (.inl hsym), ?_⟩
    rw [rawIndexOf_sym hsym, hcode, Nat.add_sub_cancel]

/-- Before the clamp a looked-up character has an index of the table that is not 27 and not 29, or one above the clamp. -/
theorem rawIndexOf_lookUp {c : Byte} (hsp : c ≠ 32) (hopen : c ≠ 60) (hclose : c ≠ 62) :
    (rawIndexOf c < 70 ∧ rawIndexOf c ≠ 27 ∧ rawIndexOf c ≠ 29) ∨ 89 < rawIndexOf c := by
  rcases mnemonic_lookUp hsp hopen hclose with h | h | h | h
  · have hbase := (exists_rawIndexOf_base_iff (rawIndexOf c)).mp ⟨c, h, rfl⟩
    omega
  · have hacc := (exists_rawIndexOf_accented_iff (rawIndexOf c)).mp ⟨c, h, rfl⟩
    omega
  · obtain ⟨hlo, -, -⟩ := (exists_rawIndexOf_oor_iff (rawIndexOf c)).mp ⟨c, h, rfl⟩
    omega
  · obtain ⟨hlo, -, -⟩ := (exists_rawIndexOf_oorf_iff (rawIndexOf c)).mp ⟨c, h, rfl⟩
    omega

/-- After the clamp the index of a looked-up character is in the table and is neither 27 nor 29. -/
theorem indexOf_lookUp {c : Byte} (hsp : c ≠ 32) (hopen : c ≠ 60) (hclose : c ≠ 62) :
    (indexOf c).toNat ≤ 69 ∧ indexOf c ≠ 27 ∧ indexOf c ≠ 29 := by
  have hraw := rawIndexOf_lookUp hsp hopen hclose
  have hidx := indexOf_toNat c
  split at hidx <;> bv_omega

/-- Settles O22, class by class. -/
theorem reachableIndices : Obligations.ReachableIndices :=
  ⟨exists_rawIndexOf_base_iff, exists_rawIndexOf_accented_iff, exists_rawIndexOf_oor_iff, exists_rawIndexOf_oorf_iff,
    fun _ hsp hopen hclose =>
      ⟨(rawIndexOf_lookUp hsp hopen hclose).imp_left And.left, indexOf_lookUp hsp hopen hclose⟩⟩

/-! ## The reference table -/

/-- No entry of the reference table is 0, and none outside it reads as 0. -/
theorem unlisted_ne_zero (i : Nat) : Memory.unlisted i ≠ 0 := by
  have hall : ∀ b ∈ Memory.tableRef, b ≠ 0 := by decide
  rw [Memory.unlisted, List.getD_eq_getElem?_getD]
  cases h : Memory.tableRef[i]? with
  | none => decide
  | some b => exact hall b (List.mem_of_getElem? h)

/-- Settles O59: the reset table lists nothing, so every index reads as its entry of the reference table. -/
theorem referenceTableIsAdmissible : Obligations.ReferenceTableIsAdmissible :=
  ⟨⟨fun i _ => unlisted_ne_zero i, rfl, rfl, rfl⟩, Memory.reset_wf⟩

end Sys2Proof.Machine
end

section
/-!
The construction commands (41_construct.md): the timing derivation (R82 to R84), either form taken in `IDLE` and held in any
other phase (R89), and from both what a construction writes. It settles O24, O25, O26 and O30.
-/
namespace Sys2Proof.Machine

/-! ## The timing derivation -/

theorem effective_of_nonpos {speed : Wpm} (h : speed ≤ 0) : effective speed = 1 := if_pos h

theorem effective_of_pos {speed : Wpm} (h : 0 < speed) : effective speed = speed := if_neg (Rat.not_le.2 h)

theorem effective_pos (speed : Wpm) : 0 < effective speed := by
  by_cases h : speed ≤ 0
  · rw [effective_of_nonpos h]
    decide
  · have hpos : 0 < speed := Rat.not_le.1 h
    rwa [effective_of_pos hpos]

theorem unitOf_eq (eff : Wpm) : unitOf eff = 1200 / eff := rfl

theorem dashOf_eq (unit : Millis) : dashOf unit = 3 * unit := rfl

theorem unitOf_one : unitOf 1 = 1200 := by decide +kernel

theorem dashOf_unitOf_one : dashOf (unitOf 1) = 3600 := by decide +kernel

theorem unitOf_pos {eff : Wpm} (h : 0 < eff) : 0 < unitOf eff := by
  rw [unitOf_eq, Rat.div_def]
  exact Rat.mul_pos (by decide) (Rat.inv_pos.2 h)

theorem dashOf_pos {unit : Millis} (h : 0 < unit) : 0 < dashOf unit :=
  Rat.mul_pos (by decide) h

theorem unitOf_effective_pos (speed : Wpm) : 0 < unitOf (effective speed) := unitOf_pos (effective_pos speed)

/-! ## Taken or held -/

theorem execConstruct3_taken {s : State} (h : s.phase = .idle) (pin : PinId) (speed : Wpm) (invert : Bool) :
    execConstruct3 pin speed invert s = .next (construct pin speed invert
      { s with toneEn := false, toneCh := Config.freeToneCh s.free, toneFreq := Config.freeToneFreq s.free }) :=
  if_pos (decide_eq_true h)

theorem execConstruct5_taken {s : State} (h : s.phase = .idle) (pin : PinId) (speed : Wpm) (toneCh : ToneId) (freq : Hz)
    (invert : Bool) :
    execConstruct5 pin speed toneCh freq invert s =
      .next (construct pin speed invert { s with toneEn := true, toneCh := toneCh, toneFreq := freq }) :=
  if_pos (decide_eq_true h)

theorem execConstruct3_held {s : State} (h : s.phase ≠ .idle) (pin : PinId) (speed : Wpm) (invert : Bool) :
    execConstruct3 pin speed invert s = .next s := if_neg (mt of_decide_eq_true h)

theorem execConstruct5_held {s : State} (h : s.phase ≠ .idle) (pin : PinId) (speed : Wpm) (toneCh : ToneId) (freq : Hz)
    (invert : Bool) : execConstruct5 pin speed toneCh freq invert s = .next s := if_neg (mt of_decide_eq_true h)

theorem admitsSend_eq_false {s : State} (h : s.phase ≠ .idle ∨ s.constructed = false) : admitsSend s = false := by
  obtain h | h := h <;> simp [admitsSend, h]

/-- Settles O30: a construction is held outside `IDLE`, and there or before construction no send is admitted. -/
theorem commandsAreHeld : Obligations.CommandsAreHeld := fun _ =>
  ⟨fun hbusy pin speed ch freq invert =>
    ⟨execConstruct3_held hbusy pin speed invert, execConstruct5_held hbusy pin speed ch freq invert⟩,
  fun hheld _ _ =>
    ⟨execSendChar_held (admitsSend_eq_false hheld), execSendSeq_held (admitsSend_eq_false hheld)⟩⟩

/-! ## What a construction writes -/

/-- Settles O24: in `IDLE` the command is taken, and `construct_eq` writes the new core as one update of the old one. -/
theorem constructThreeEffect : Obligations.ConstructThreeEffect := by
  intro s pin speed invert hidle
  refine ⟨_, execConstruct3_taken hidle pin speed invert, ?_⟩
  simp [construct_eq, effective, unitOf_eq, dashOf_eq]

/-- Settles O25 as O24; the tone registers stand in the state that `construct` is given, and it keeps them. -/
theorem constructFiveEffect : Obligations.ConstructFiveEffect := by
  intro s pin speed ch freq invert hidle
  refine ⟨_, execConstruct5_taken hidle pin speed ch freq invert, ?_⟩
  simp [construct_eq, effective, unitOf_eq, dashOf_eq]

/-- The timing registers after a construction are those R82 to R84 derive from its operand, whatever the old core was. -/
theorem construct_timing (pin : PinId) (speed : Wpm) (invert : Bool) (s : State) :
    (construct pin speed invert s).eff = effective speed ∧
    (construct pin speed invert s).unit = unitOf (effective speed) ∧
    (construct pin speed invert s).dash = dashOf (unitOf (effective speed)) := ⟨rfl, rfl, rfl⟩

/-- Settles O26: both forms write the timing registers from the effective speed, which is 1 or the operand and so
positive. -/
theorem speedFallback : Obligations.SpeedFallback := by
  refine ⟨fun s pin speed ch freq invert hidle => ?_, fun speed h => ?_, fun speed => effective_of_pos,
    fun speed => ⟨unitOf_effective_pos speed, dashOf_pos (unitOf_effective_pos speed)⟩⟩
  · refine ⟨_, _, execConstruct3_taken hidle pin speed invert, execConstruct5_taken hidle pin speed ch freq invert, ?_⟩
    simp only [construct_timing]
    refine ⟨fun h => ?_, fun h => ?_, unitOf_effective_pos speed, dashOf_eq _,
      dashOf_pos (unitOf_effective_pos speed), trivial, trivial⟩
    · rw [effective_of_nonpos h]
      exact ⟨rfl, unitOf_one, dashOf_unitOf_one, rfl, unitOf_one, dashOf_unitOf_one⟩
    · rw [effective_of_pos h]
      exact ⟨rfl, unitOf_eq speed, rfl, unitOf_eq speed⟩
  · rw [effective_of_nonpos h]
    exact ⟨rfl, unitOf_one⟩

end Sys2Proof.Machine
end

section
/-!
The output driver (42_output_driver.md): the pulse with a tone channel and without one (R93, R94), what the letters of R97
key, and that every run that is back in `IDLE` leaves the output at rest (R96). It settles O46, O8, O9 and O20.
-/
namespace Sys2Proof.Safety

open Sys2Proof.Machine

/-! ## The output between commands -/

/-- A run of one more step is a step and the run from where it ends. -/
theorem step_of_run_succ {n : Nat} {s t : State} (h : core.run (n + 1) s = .next t) :
    ∃ u, step s = .next u ∧ core.run n u = .next t := by
  simp only [Host.Core.run] at h
  split at h
  · next u hu => exact ⟨u, hu, h⟩
  · cases h
  · cases h

/-- What every step keeps, every run keeps. -/
theorem run_keeps {P : State → Prop} (hstep : ∀ s t, P s → step s = .next t → P t) {n : Nat} {s t : State} (hs : P s)
    (h : core.run n s = .next t) : P t := by
  induction n generalizing s with
  | zero =>
    cases h
    exact hs
  | succ n ih =>
    obtain ⟨u, hu, hrun⟩ := step_of_run_succ h
    exact ih (hstep s u hs hu) hrun

/-- Settles O46: the run keeps the invariant (O42), and `IDLE` is a phase in which nothing marks or sounds. -/
theorem quietBetweenCommands : Obligations.QuietBetweenCommands := by
  intro s t n hs hrun hidle hbuilt
  have ht : Inv t := run_keeps stepKeepsInvariant hs hrun
  exact (ht.phaseFits hbuilt).atRest (Keyed.refl t) hidle ⟨rfl, rfl⟩

/-! ## The pulse -/

theorem pulseEvents_tone {s : State} (h : s.toneEn = true) (mark : Millis) :
    pulseEvents s mark =
      [.ton s.toneCh s.toneFreq, .lvl s.pin (!s.invert), .dly mark, .lvl s.pin s.invert, .tof s.toneCh,
        .dly s.unit] := by
  simp [pulseEvents, h]

theorem pulseEvents_silent {s : State} (h : s.toneEn = false) (mark : Millis) :
    pulseEvents s mark = [.lvl s.pin (!s.invert), .dly mark, .lvl s.pin s.invert, .dly s.unit] := by
  simp [pulseEvents, h]

/-- A pulse with a tone channel: its six events, the output idle and the tone off after it. -/
theorem pulse_tone {s : State} (h : s.toneEn = true) (mark : Millis) :
    pulse mark s = { s with
      trace := s.trace ++ [.ton s.toneCh s.toneFreq, .lvl s.pin (!s.invert), .dly mark, .lvl s.pin s.invert,
        .tof s.toneCh, .dly s.unit],
      key := s.invert, toneOn := false } := by
  simp [pulse_eq, pulseEvents_tone h, h]

/-- A pulse without one: its four events, and `TONE_ON` as it was. -/
theorem pulse_silent {s : State} (h : s.toneEn = false) (mark : Millis) :
    pulse mark s = { s with
      trace := s.trace ++ [.lvl s.pin (!s.invert), .dly mark, .lvl s.pin s.invert, .dly s.unit],
      key := s.invert } := by
  simp [pulse_eq, pulseEvents_silent h, h]

theorem exec_dot (s : State) : exec .dot s = .next (pulse s.unit s) := rfl

theorem exec_dash (s : State) : exec .dash s = .next (pulse s.dash s) := rfl

/-- Settles O8: a dot is the pulse that marks for `U`. -/
theorem dotEvents : Obligations.DotEvents := fun s =>
  ⟨fun htone => by rw [exec_dot, pulse_tone htone], fun hsilent => by rw [exec_dot, pulse_silent hsilent]⟩

/-- Settles O9: a dash is the pulse that marks for `DASH`, which is `3·U`. -/
theorem dashEvents : Obligations.DashEvents := fun s hdash =>
  ⟨fun htone => by rw [exec_dash, pulse_tone htone, hdash],
    fun hsilent => by rw [exec_dash, pulse_silent hsilent, hdash]⟩

/-! ## The letters of R97 -/

theorem ended_trace (s : State) : (ended s).trace = s.trace := by
  obtain ⟨-, -, -, htrace, -⟩ := ended_frame s
  exact htrace

theorem looked_trace (s : State) (c' : Byte) (off : BitVec 7) (idx r : Byte) (es : List Bool) :
    (looked s c' off idx r es).trace = s.trace ++ keyEvents s es ++ gapEvents s := ended_trace _

theorem exec_sym (c : Byte) (s : State) : exec (.sym c) s = lookUpAndKey c s := rfl

/-- Outside prosign mode a `SYM` code keys its symbol byte, and the letter gap follows (R115, R122). -/
theorem exec_sym_trace {c b : Byte} {s : State} (hentry : symbolOf s c = b) (hb : b ≠ 0) (hprosign : s.prosign = false) :
    ∃ t, exec (.sym c) s = .next t ∧ t.trace = s.trace ++ keyEvents s (unpack b) ++ [.dly (2 * s.unit)] := by
  subst hentry
  refine ⟨_, (exec_sym c s).trans (lookUpAndKey_symbol hb), ?_⟩
  rw [looked_trace, gapEvents, hprosign, if_neg Bool.false_ne_true]

theorem elementEvents_silent {s : State} (h : s.toneEn = false) (dash : Bool) :
    elementEvents s dash =
      [.lvl s.pin (!s.invert), .dly (if dash then s.dash else s.unit), .lvl s.pin s.invert, .dly s.unit] :=
  pulseEvents_silent h _

/-- `E` reads entry 36: its code is 36 above the lowest look-up code, 33. -/
theorem symbolOf_E (s : State) : symbolOf s 0x45 = Memory.byteAt s.table 36 := rfl

/-- `O` reads entry 46 in the same way. -/
theorem symbolOf_O (s : State) : symbolOf s 0x4F = Memory.byteAt s.table 46 := rfl

/-- One dot (R69 c). -/
theorem unpack_two : unpack 2 = [false] := by decide

/-- Three dashes (R69 c). -/
theorem unpack_fifteen : unpack 15 = [true, true, true] := by decide

/-- Settles O20: an admissible table holds one dot at entry 36 and three dashes at entry 46; each element's events are those
of its pulse. -/
theorem lettersEAndO : Obligations.LettersEAndO := by
  rintro s ⟨-, -, hE, hO⟩ hprosign hdash
  constructor
  · obtain ⟨t, ht, htrace⟩ := exec_sym_trace ((symbolOf_E s).trans hE) (by decide) hprosign
    rw [unpack_two] at htrace
    refine ⟨t, ht, by simp [htrace, keyEvents], fun hsilent => ?_⟩
    simp [htrace, keyEvents, elementEvents_silent hsilent]
  · obtain ⟨t, ht, htrace⟩ := exec_sym_trace ((symbolOf_O s).trans hO) (by decide) hprosign
    rw [unpack_fifteen] at htrace
    refine ⟨t, ht, by simp [htrace, keyEvents], fun hsilent => ?_⟩
    simp [htrace, keyEvents, elementEvents_silent hsilent, hdash]

end Sys2Proof.Safety
end

section
/-!
The symbol decoder (43_pulse_decoder.md): packing element by element and the formula of R102, the elements of a symbol byte
as its bits below the terminator (R100), the loop from a symbol byte (R101, R106) and from the byte 0 (R105). It settles O4,
O5, O6, O7 and O19.
-/
namespace Sys2Proof

/-! ## A symbol byte and the byte one element shorter -/

theorem shiftRight_one_toNat (b : Byte) : (b >>> 1).toNat = b.toNat / 2 := by
  rw [BitVec.toNat_ushiftRight, Nat.shiftRight_eq_div_pow, Nat.pow_one]

/-- A symbol byte above the terminator is one again when its first element is shifted out. -/
theorem shiftRight_one_ne_zero {b : Byte} (h0 : b ≠ 0) (h1 : b ≠ 1) : b >>> 1 ≠ 0 := by
  have htoNat := shiftRight_one_toNat b
  bv_omega

/-- Shifting the first element out brings the terminator down by one. -/
theorem log2_eq_log2_shiftRight_one_add_one {b : Byte} (h0 : b ≠ 0) (h1 : b ≠ 1) :
    Nat.log2 b.toNat = Nat.log2 (b >>> 1).toNat + 1 := by
  have htwo : 2 ≤ b.toNat := by bv_omega
  rw [shiftRight_one_toNat, Nat.log2_def, if_pos htwo]

/-- The terminator is one of the 8 bits (R104). -/
theorem log2_le_seven {b : Byte} (h0 : b ≠ 0) : Nat.log2 b.toNat ≤ 7 := by
  have hpos : b.toNat ≠ 0 := by bv_omega
  exact Nat.le_of_lt_succ ((Nat.log2_lt hpos).2 b.isLt)

/-! ## Unpacking -/

theorem unpackFrom_one (fuel : Nat) : unpackFrom fuel 1 = [] := by
  cases fuel <;> rfl

theorem unpackFrom_succ {b : Byte} (h1 : b ≠ 1) (fuel : Nat) :
    unpackFrom (fuel + 1) b = b.getLsbD 0 :: unpackFrom fuel (b >>> 1) := if_neg h1

/-- Enough rounds unpack a symbol byte to its bits below the terminator, from bit 0 up (R100). -/
theorem unpackFrom_eq_bits {fuel : Nat} {b : Byte} (h0 : b ≠ 0) (hfuel : Nat.log2 b.toNat ≤ fuel) :
    unpackFrom fuel b = (List.range (Nat.log2 b.toNat)).map b.getLsbD := by
  induction fuel generalizing b with
  | zero =>
    rw [Nat.le_zero.1 hfuel]
    rfl
  | succ fuel ih =>
    by_cases h1 : b = 1
    · rw [h1, unpackFrom_one]
      decide
    · have hlog := log2_eq_log2_shiftRight_one_add_one h0 h1
      have htail := ih (shiftRight_one_ne_zero h0 h1) (by omega)
      rw [unpackFrom_succ h1, htail, hlog, List.range_succ_eq_map, List.map_cons, List.map_map]
      congr 2
      funext k
      rw [BitVec.getLsbD_ushiftRight, Nat.add_comm, Function.comp_apply]

theorem unpack_eq_bits {b : Byte} (h0 : b ≠ 0) : unpack b = (List.range (Nat.log2 b.toNat)).map b.getLsbD :=
  unpackFrom_eq_bits h0 (log2_le_seven h0)

theorem length_unpack {b : Byte} (h0 : b ≠ 0) : (unpack b).length = Nat.log2 b.toNat := by
  rw [unpack_eq_bits h0, List.length_map, List.length_range]

/-- Fewer rounds key the first elements. -/
theorem unpackFrom_eq_take {j fuel : Nat} (hj : j ≤ fuel) (b : Byte) : unpackFrom j b = (unpackFrom fuel b).take j := by
  induction j generalizing fuel b with
  | zero => rfl
  | succ j ih =>
    obtain ⟨fuel, rfl⟩ : ∃ n, fuel = n + 1 := ⟨fuel - 1, by omega⟩
    by_cases h1 : b = 1
    · rw [h1, unpackFrom_one, unpackFrom_one, List.take_nil]
    · rw [unpackFrom_succ h1, unpackFrom_succ h1, List.take_succ_cons, ih (Nat.le_of_succ_le_succ hj)]

/-! ## Packing -/

theorem pack_nil : pack [] = 1 := rfl

/-- Packing shifts the rest up and puts the first element at bit 0. -/
theorem pack_cons (e : Bool) (es : List Bool) : pack (e :: es) = (pack es).shiftConcat e := by
  ext i
  cases e <;> cases i <;> simp [pack, BitVec.getElem_shiftConcat]

/-- The packed byte is below the bit above its terminator. -/
theorem toNat_pack_lt {es : List Bool} (h : es.length ≤ 7) : (pack es).toNat < 2 ^ (es.length + 1) := by
  induction es with
  | nil => decide
  | cons e es ih =>
    rw [List.length_cons] at h ⊢
    rw [pack_cons]
    exact BitVec.toNat_shiftConcat_lt_of_lt (by omega) (ih (by omega))

/-- While there is room for one more element, packing it doubles the byte and adds the element. -/
theorem toNat_pack_cons {e : Bool} {es : List Bool} (h : es.length < 7) :
    (pack (e :: es)).toNat = (pack es).toNat * 2 + e.toNat := by
  rw [pack_cons]
  exact BitVec.toNat_shiftConcat_eq_of_lt (k := es.length + 1) (by omega) (toNat_pack_lt (by omega))

/-- What an element adds to the formula of R102 at its place. -/
def elementWeight (p : Bool × Nat) : Nat := if p.1 then 2 ^ p.2 else 0

/-- One place higher every element weighs twice as much. -/
theorem sum_elementWeight_zipIdx_succ (es : List Bool) (k : Nat) :
    ((es.zipIdx (k + 1)).map elementWeight).sum = 2 * ((es.zipIdx k).map elementWeight).sum := by
  induction es generalizing k with
  | nil => rfl
  | cons e es ih =>
    have hhead : elementWeight (e, k + 1) = 2 * elementWeight (e, k) := by
      cases e
      · rfl
      · exact Nat.pow_succ'
    simp only [List.zipIdx_cons, List.map_cons, List.sum_cons, ih, hhead, Nat.mul_add]

/-- The formula of R102. -/
theorem toNat_pack {es : List Bool} (h : es.length ≤ 7) :
    (pack es).toNat = 2 ^ es.length + (es.zipIdx.map elementWeight).sum := by
  induction es with
  | nil => rfl
  | cons e es ih =>
    rw [List.length_cons] at h
    have hhead : elementWeight (e, 0) = e.toNat := by cases e <;> rfl
    rw [toNat_pack_cons (by omega), ih (by omega), List.zipIdx_cons, List.map_cons, List.sum_cons,
      sum_elementWeight_zipIdx_succ, hhead, List.length_cons, Nat.pow_succ]
    omega

/-! ## Packing and unpacking undo each other -/

theorem unpackFrom_pack {fuel : Nat} {es : List Bool} (h : es.length ≤ 7) (hfuel : es.length ≤ fuel) :
    unpackFrom fuel (pack es) = es := by
  induction es generalizing fuel with
  | nil => exact unpackFrom_one fuel
  | cons e es ih =>
    rw [List.length_cons] at h hfuel
    obtain ⟨fuel, rfl⟩ : ∃ n, fuel = n + 1 := ⟨fuel - 1, by omega⟩
    have htoNat := toNat_pack_cons (e := e) (es := es) (by omega)
    have hpos : 0 < (pack es).toNat := by
      rw [toNat_pack (by omega)]
      exact Nat.add_pos_left (Nat.two_pow_pos _) _
    have hbit := e.toNat_lt
    have h1 : pack (e :: es) ≠ 1 := by bv_omega
    have hfirst : (pack (e :: es)).getLsbD 0 = e := by simp [pack_cons]
    have hrest : pack (e :: es) >>> 1 = pack es := by
      apply BitVec.eq_of_toNat_eq
      rw [shiftRight_one_toNat]
      omega
    rw [unpackFrom_succ h1, hfirst, hrest, ih (by omega) (by omega)]

/-- Putting back the bit that was shifted out. -/
theorem shiftConcat_shiftRight_one (b : Byte) : (b >>> 1).shiftConcat (b.getLsbD 0) = b :=
  (BitVec.shiftRight_sub_one_eq_shiftConcat b Nat.one_pos).symm.trans (BitVec.ushiftRight_zero b)

theorem pack_unpackFrom {fuel : Nat} {b : Byte} (h0 : b ≠ 0) (hfuel : Nat.log2 b.toNat ≤ fuel) :
    pack (unpackFrom fuel b) = b := by
  induction fuel generalizing b with
  | zero =>
    have hpos : b.toNat ≠ 0 := by bv_omega
    have hlt : b.toNat < 2 := (Nat.log2_lt hpos).1 (Nat.lt_succ_of_le hfuel)
    have hone : b = 1 := by bv_omega
    rw [hone, unpackFrom_one, pack_nil]
  | succ fuel ih =>
    by_cases h1 : b = 1
    · rw [h1, unpackFrom_one, pack_nil]
    · have hlog := log2_eq_log2_shiftRight_one_add_one h0 h1
      rw [unpackFrom_succ h1, pack_cons, ih (shiftRight_one_ne_zero h0 h1) (by omega), shiftConcat_shiftRight_one]

/-- Settles O4: the formula and the first law go by induction on the elements, the second on the rounds that unpack
the byte. -/
theorem packUnpackInverse : Obligations.PackUnpackInverse :=
  ⟨fun _ h => ⟨toNat_pack h, unpackFrom_pack h h⟩, fun _ h0 => pack_unpackFrom h0 (log2_le_seven h0)⟩

end Sys2Proof

namespace Sys2Proof.Machine

open Sys2Proof.Safety

/-! ## The loop from a symbol byte -/

/-- Settles O5: the loop in closed form (`keyRounds_eq`), and the elements of a symbol byte as its bits below the
terminator. -/
theorem decodingLoopKeysTheSymbol : Obligations.DecodingLoopKeysTheSymbol := by
  intro s h0
  refine ⟨length_unpack h0, fun k hk => ?_, ?_, ?_, ?_⟩
  · rw [unpack_eq_bits h0, List.getElem?_map, List.getElem?_range hk, Option.map_some]
  · rw [keyRounds_eq]
    exact shifted_symbol s.v h0
  · rw [keyRounds_eq]
    rfl
  · rw [keyRounds_eq]

theorem shifted_one (fuel : Nat) : shifted fuel 1 = 1 := by
  cases fuel <;> rfl

theorem shifted_succ {v : Byte} (h1 : v ≠ 1) (fuel : Nat) : shifted (fuel + 1) v = shifted fuel (v >>> 1) := if_neg h1

/-- A symbol byte shifted while it is not 1 stays a symbol byte (R105). -/
theorem shifted_ne_zero {v : Byte} (h0 : v ≠ 0) (fuel : Nat) : shifted fuel v ≠ 0 := by
  induction fuel generalizing v with
  | zero => exact h0
  | succ fuel ih =>
    by_cases h1 : v = 1
    · rw [h1, shifted_one]
      decide
    · rw [shifted_succ h1]
      exact ih (shiftRight_one_ne_zero h0 h1)

/-- Down to its terminator a symbol byte is only shifted. -/
theorem shifted_eq_shiftRight {j : Nat} {v : Byte} (h0 : v ≠ 0) (hj : j ≤ Nat.log2 v.toNat) : shifted j v = v >>> j := by
  induction j generalizing v with
  | zero => exact (BitVec.ushiftRight_zero v).symm
  | succ j ih =>
    have h1 : v ≠ 1 := by
      rintro rfl
      exact absurd hj (Nat.not_succ_le_zero j)
    have hlog := log2_eq_log2_shiftRight_one_add_one h0 h1
    rw [shifted_succ h1, ih (shiftRight_one_ne_zero h0 h1) (by omega), Nat.add_comm, BitVec.shiftRight_add]

/-- What is left after `j` rounds unpacks to the elements not yet keyed. -/
theorem unpackFrom_shifted (fuel j : Nat) (v : Byte) :
    unpackFrom fuel (shifted j v) = (unpackFrom (fuel + j) v).drop j := by
  induction j generalizing v with
  | zero => rfl
  | succ j ih =>
    by_cases h1 : v = 1
    · rw [h1, shifted_one, unpackFrom_one, unpackFrom_one, List.drop_nil]
    · rw [shifted_succ h1, ih, ← Nat.add_assoc, unpackFrom_succ h1, List.drop_succ_cons]

/-- More than 7 rounds unpack a symbol byte to nothing more (R104). -/
theorem unpackFrom_eq_unpack {fuel : Nat} {v : Byte} (h0 : v ≠ 0) (h : 7 ≤ fuel) : unpackFrom fuel v = unpack v := by
  rw [unpack_eq_bits h0, unpackFrom_eq_bits h0 (Nat.le_trans (log2_le_seven h0) h)]

/-- Settles O6: in closed form `V` is `shifted j`, which on a symbol byte is the shift by `j`. -/
theorem decodingLoopInvariant : Obligations.DecodingLoopInvariant := by
  intro s j h0 hj
  have hlog : j ≤ Nat.log2 s.v.toNat := length_unpack h0 ▸ hj
  have hseven : j ≤ 7 := Nat.le_trans hlog (log2_le_seven h0)
  rw [keyRounds_eq]
  refine ⟨shifted_eq_shiftRight h0 hlog, shifted_ne_zero h0 j, ?_, ?_⟩
  · show unpackFrom 7 (shifted j s.v) = _
    rw [unpackFrom_shifted, unpackFrom_eq_unpack h0 (Nat.le_add_right 7 j)]
  · show _ = s.trace ++ keyEvents s ((unpackFrom 7 s.v).take j)
    rw [← unpackFrom_eq_take hseven]

/-! ## The byte 0 -/

/-- Keying an element changes nothing that the events of an element read. -/
theorem keyEvents_keyElement (s : State) : keyEvents (keyElement s) = keyEvents s := by
  rw [keyElement_eq]
  rfl

/-- One round from the byte 0 keys a dot and leaves the byte 0 (R105). -/
theorem keyElement_zero {s : State} (hv : s.v = 0) :
    (keyElement s).v = 0 ∧ (keyElement s).trace = s.trace ++ elementEvents s false := by
  rw [keyElement_eq, hv]
  exact ⟨rfl, rfl⟩

/-- Settles O7: by induction on the steps, each of which keys one dot and is back in `TEST` with the byte 0. -/
theorem zeroByteKeysDotsForEver : Obligations.ZeroByteKeysDotsForEver := by
  intro s n hrst hphase hv
  induction n generalizing s with
  | zero => exact ⟨s, rfl, hphase, hv, (List.append_nil _).symm⟩
  | succ n ih =>
    have hstep : step s = .next (keyElement s) := step_test hrst hphase (by rw [hv]; decide)
    have hphase' : (keyElement s).phase = .test := by rwa [keyElement_eq]
    have hrst' : (keyElement s).rst = false := (keyed_keyElement s).inputs.rst.trans hrst
    obtain ⟨hv', htrace'⟩ := keyElement_zero hv
    obtain ⟨t, hrun, hp, htv, htrace⟩ := ih (keyElement s) hrst' hphase' hv'
    refine ⟨t, (run_succ_next hstep n).trans hrun, hp, htv, ?_⟩
    rw [htrace, htrace', keyEvents_keyElement, List.append_assoc, List.replicate_succ, keyEvents_cons]

/-- Settles O19: the look-up loads the byte 0, and `keyLoaded_zero` is what one step makes of it. -/
theorem zeroEntryNeverCompletes : Obligations.ZeroEntryNeverCompletes := by
  intro s c hsp hopen hclose hentry
  have hsend : exec (decodeChar c) s = .next (keyLoaded { resolve (latch c s) with v := symbolOf s c }) := by
    rw [exec_char, sendCharacter_lookUp hsp hopen hclose, lookUpAndKey_next]
  rw [keyLoaded_zero (s := { resolve (latch c s) with v := symbolOf s c }) hentry] at hsend
  exact ⟨_, hsend, rfl, hentry, rfl, rfl, rfl, 7, rfl⟩

end Sys2Proof.Machine
end

section
/-!
The ten character classes (44_timing_fsm.md R111 to R120): what normalisation and the index arithmetic make of the
codes of each class, and with it the whole next state of a character of the class. It settles O10 to O18.
-/
namespace Sys2Proof.Safety

open Sys2Proof.Machine

/-- Settles O10: the space is written in the model as the rule says it. -/
theorem spaceDelaysSevenUnits : Obligations.SpaceDelaysSevenUnits := fun _ => rfl

/-- Settles O11: the delimiters too are written in the model as the rules say them. -/
theorem delimitersComplementProsign : Obligations.DelimitersComplementProsign := fun _ => ⟨rfl, rfl⟩

/-! ## What a look-up makes of a code -/

/-- The code `c` normalises to `c'`, has the offset `off` and the index `idx` after the clamp, and reports `r`. -/
structure Resolves (c c' : Byte) (off : BitVec 7) (idx r : Byte) : Prop where
  normalised : normalise c = c'
  offset : offsetOf c = off
  index : indexOf c = idx
  code : returnOf c = r

/-- An index that is not clamped reports the normalised code: R72 undoes R62 and R66. -/
theorem resolves_unclamped {c c' : Byte} {off : BitVec 7} {idx : Byte} (hn : normalise c = c')
    (hoff : accentOffset c' = off) (hidx : rawIndex c' off = idx) (hle : idx ≤ 70) : Resolves c c' off idx c' := by
  have hclamp : ¬ clampMax < idx := BitVec.not_lt.mpr hle
  have hoffset : offsetOf c = off := by rw [offsetOf, hn, hoff, hidx, clampOffset, if_neg hclamp]
  have hindex : indexOf c = idx := by rw [indexOf, hn, hoff, hidx, clampIndex, if_neg hclamp]
  refine ⟨hn, hoffset, hindex, ?_⟩
  rw [returnOf, hoffset, hindex, reconstruct, ← hidx, rawIndex]
  bv_omega

/-- An index above the clamp becomes that of the placeholder, without an offset, and reports its code (R67). -/
theorem resolves_clamped {c c' : Byte} (hn : normalise c = c') (h : 70 < rawIndexOf c) : Resolves c c' 0 2 35 := by
  have hclamp : clampMax < rawIndex (normalise c) (accentOffset (normalise c)) := h
  have hoffset : offsetOf c = 0 := by rw [offsetOf, clampOffset, if_pos hclamp]
  have hindex : indexOf c = 2 := by rw [indexOf, clampIndex, if_pos hclamp]
  refine ⟨hn, hoffset, hindex, ?_⟩
  rw [returnOf, hoffset, hindex]
  rfl

/-- A code that normalises below the accented codes has its distance from `!` as index and no offset (R62, R63). -/
theorem resolves_base {c c' : Byte} (hn : normalise c = c') (hlo : 33 ≤ c'.toNat) (hhi : c'.toNat ≤ 103) :
    Resolves c c' 0 (c' - 33) c' := by
  have hd : c'.toNat - 33 ∉ accentedDistances := not_mem_accentedDistances (by omega)
  have hoff : accentOffset c' = 0 :=
    accentOffset_plain (eq_false_of_ne_true (mt contains_accentedUpper_iff.mp hd))
  have hidx : rawIndex c' 0 = c' - 33 := by simp [rawIndex]
  exact resolves_unclamped hn hoff hidx (by bv_omega)

/-- A code that normalises to an accented one has the offset and the slot of its row (R65). -/
theorem resolves_accented {c c' : Byte} {off : BitVec 7} {slot : Byte} (hn : normalise c = c')
    (hrow : (c', off, slot) ∈ accentRows) : Resolves c c' off slot c' := by
  simp only [accentRows, List.mem_cons, List.not_mem_nil, or_false, Prod.mk.injEq] at hrow
  rcases hrow with ⟨rfl, rfl, rfl⟩ | ⟨rfl, rfl, rfl⟩ | ⟨rfl, rfl, rfl⟩ | ⟨rfl, rfl, rfl⟩ | ⟨rfl, rfl, rfl⟩ |
    ⟨rfl, rfl, rfl⟩ | ⟨rfl, rfl, rfl⟩ <;>
  exact resolves_unclamped hn (by decide) (by decide) (by decide)

/-! ## Class by class -/

theorem resolves_ctrl {c : Byte} (h : wellFormed (.ctrl c) = true) : Resolves c 35 0 2 35 :=
  resolves_base (normalise_control (of_decide_eq_true h)) (by decide) (by decide)

theorem resolves_sym {c : Byte} (h : wellFormed (.sym c) = true) : Resolves c c 0 (c - 33) c := by
  obtain ⟨hlo, hhi, -, -⟩ := wellFormed_sym_iff.mp h
  exact resolves_base (normalise_uppercase hlo (by rw [lowercase_iff]; omega)) hlo (by omega)

theorem resolves_low {c : Byte} (h : wellFormed (.low c) = true) : Resolves c (c - 32) 0 (c - 65) (c - 32) := by
  obtain ⟨hlo, hhi⟩ := wellFormed_low_iff.mp h
  have hindex : c - 32 - 33 = c - 65 := by bv_omega
  exact hindex ▸ resolves_base (normalise_lowercase (.inl ⟨hlo, hhi⟩)) (by bv_omega) (by bv_omega)

theorem resolves_oor {c : Byte} (h : wellFormed (.oor c) = true) : Resolves c c 0 2 35 := by
  obtain ⟨hlo, hhi, -⟩ := wellFormed_oor_iff.mp h
  have hraw := rawIndexOf_oor h
  exact resolves_clamped (normalise_uppercase (by bv_omega) (by rw [lowercase_iff]; omega)) (by omega)

theorem resolves_oorf {c : Byte} (h : wellFormed (.oorf c) = true) : Resolves c (c - 32) 0 2 35 := by
  obtain ⟨hlo, -, -⟩ := wellFormed_oorf_iff.mp h
  have hraw := rawIndexOf_oorf h
  exact resolves_clamped (normalise_lowercase (.inr (by bv_omega))) (by omega)

/-- The codes of R65 are those of the class `ACC`. -/
theorem wellFormed_acc_iff (c : Byte) : wellFormed (.acc c) = true ↔ c ∈ accentRows.map Prod.fst := by
  rw [wellFormed, List.contains_iff_mem]
  simp only [accentedUpper, accentRows, List.map_cons, List.map_nil, List.mem_cons, List.not_mem_nil, or_false]
  bv_omega

theorem wellFormed_accl_iff (c : Byte) : wellFormed (.accl c) = true ↔ c - 32 ∈ accentRows.map Prod.fst := by
  rw [wellFormed, contains_accentedLower]
  exact wellFormed_acc_iff (c - 32)

/-- A row of R65 that has the code. -/
theorem exists_accentRow {c : Byte} (h : c ∈ accentRows.map Prod.fst) : ∃ off slot, (c, off, slot) ∈ accentRows := by
  obtain ⟨⟨_, off, slot⟩, hrow, rfl⟩ := List.mem_map.mp h
  exact ⟨off, slot, hrow⟩

theorem resolves_acc {c : Byte} {off : BitVec 7} {slot : Byte} (hrow : (c, off, slot) ∈ accentRows) :
    Resolves c c off slot c :=
  resolves_accented (normalise_acc ((wellFormed_acc_iff c).mpr (List.mem_map_of_mem hrow))) hrow

theorem resolves_accl {c : Byte} {off : BitVec 7} {slot : Byte} (hrow : (c - 32, off, slot) ∈ accentRows) :
    Resolves c (c - 32) off slot (c - 32) :=
  resolves_accented (normalise_accl ((wellFormed_accl_iff c).mpr (List.mem_map_of_mem hrow))) hrow

/-! ## What is keyed -/

theorem Resolves.keys {c c' : Byte} {off : BitVec 7} {idx r : Byte} {s : State} (h : Resolves c c' off idx r)
    (hentry : Memory.byteAt s.table idx.toNat ≠ 0) :
    lookUpAndKey c s = .next (looked s c' off idx r (unpack (Memory.byteAt s.table idx.toNat))) := by
  obtain ⟨rfl, rfl, rfl, rfl⟩ := h
  exact lookUpAndKey_symbol hentry

/-- The entry 1 has no element. -/
theorem Resolves.keys_nothing {c c' : Byte} {off : BitVec 7} {idx r : Byte} {s : State} (h : Resolves c c' off idx r)
    (hentry : Memory.byteAt s.table idx.toNat = 1) : lookUpAndKey c s = .next (looked s c' off idx r []) := by
  have hkeys := h.keys (s := s) (by rw [hentry]; decide)
  rwa [hentry, unpack, unpackFrom_one] at hkeys

/-- Settles O12: a control code is the placeholder, at index 2. -/
theorem controlActsAsPlaceholder : Obligations.ControlActsAsPlaceholder :=
  ⟨fun _ _ hwf => ⟨(resolves_ctrl hwf).keys, (resolves_ctrl hwf).keys_nothing⟩, rfl⟩

/-- Settles O13: a symbol is a base code as it is. -/
theorem symbolKeysItsEntry : Obligations.SymbolKeysItsEntry := by
  intro s c hwf hentry
  obtain ⟨hlo, -⟩ := wellFormed_sym_iff.mp hwf
  have hindex : c.toNat - 33 = (c - 33).toNat := by bv_omega
  rw [hindex] at hentry ⊢
  exact (resolves_sym hwf).keys hentry

/-- Settles O14: a lowercase letter is a base code 32 lower. -/
theorem lowercaseIsFolded : Obligations.LowercaseIsFolded := by
  intro s c hwf hentry
  obtain ⟨hlo, -⟩ := wellFormed_low_iff.mp hwf
  have hindex : c.toNat - 65 = (c - 65).toNat := by bv_omega
  rw [hindex] at hentry ⊢
  exact (resolves_low hwf).keys hentry

/-- Settles O15: an accented letter is its row of R65. -/
theorem accentedKeysItsSlot : Obligations.AccentedKeysItsSlot :=
  ⟨wellFormed_acc_iff, fun _ _ _ _ hrow hentry => (resolves_acc hrow).keys hentry⟩

/-- Settles O16: an accented lowercase letter is the row of R65 of the code 32 lower. -/
theorem accentedLowercaseIsFolded : Obligations.AccentedLowercaseIsFolded :=
  ⟨wellFormed_accl_iff, fun _ _ _ _ hrow hentry => (resolves_accl hrow).keys hentry⟩

/-- Settles O17: the index of an out-of-range code lies above the clamp. -/
theorem outOfRangeIsClamped : Obligations.OutOfRangeIsClamped := by
  intro s c hwf
  obtain ⟨hlo, hhi, -⟩ := wellFormed_oor_iff.mp hwf
  refine ⟨?_, hlo, hhi, (resolves_oor hwf).keys, (resolves_oor hwf).keys_nothing⟩
  rw [rawIndex]
  bv_omega

/-- Settles O18: the index of an out-of-range code that is folded lies above the clamp too. -/
theorem outOfRangeFoldedIsClamped : Obligations.OutOfRangeFoldedIsClamped := by
  intro s c hwf
  obtain ⟨hlo, hhi, -⟩ := wellFormed_oorf_iff.mp hwf
  refine ⟨?_, hlo, hhi, (resolves_oorf hwf).keys, (resolves_oorf hwf).keys_nothing⟩
  rw [rawIndex]
  bv_omega

/-- The code that a looked-up character reports is that of its class (R73). -/
theorem returnOf_lookUp {c : Byte} (hsp : c ≠ 32) (hopen : c ≠ 60) (hclose : c ≠ 62) :
    returnOf c = classReturn (decodeChar c) := by
  have hnsp : decodeChar c ≠ .sp := decodeChar_ne rfl hsp
  have hnopen : decodeChar c ≠ .proOpen := decodeChar_ne rfl hopen
  have hnclose : decodeChar c ≠ .proClose := decodeChar_ne rfl hclose
  have hmem := decodeChar_mem_charInstrs c
  have hwf := wellFormed_decodeChar c
  simp only [charInstrs, List.mem_cons, List.not_mem_nil, or_false, hnsp, hnopen, hnclose, false_or] at hmem
  rcases hmem with h | h | h | h | h | h | h <;> rw [h] at hwf ⊢
  · exact (resolves_ctrl hwf).code
  · exact (resolves_sym hwf).code
  · exact (resolves_low hwf).code
  · exact (resolves_oor hwf).code
  · obtain ⟨off, slot, hrow⟩ := exists_accentRow ((wellFormed_acc_iff c).mp hwf)
    exact (resolves_acc hrow).code
  · exact (resolves_oorf hwf).code
  · obtain ⟨off, slot, hrow⟩ := exists_accentRow ((wellFormed_accl_iff c).mp hwf)
    exact (resolves_accl hrow).code

end Sys2Proof.Safety
end

section
/-!
One character as one function of the state (44_timing_fsm.md R110 to R124): what a character that completes has done
when it ends, whatever class it is of, and that this does not depend on where in a sequence the core is. It settles
O28 and O53.
-/
namespace Sys2Proof.Safety

open Sys2Proof.Machine

/-! ## What a character does before it ends -/

/-- What sending the character `c` has done when phase `DONE` is reached. -/
def sent (c : Byte) (s : State) : State :=
  if c = 32 then { s with c := 32, ret := 32, trace := s.trace ++ [.dly (7 * s.unit)] }
  else if c = 60 ∨ c = 62 then { s with c := c, ret := c, prosign := !s.prosign }
  else
    { s with
      c := normalise c, offr := offsetOf c, idx := indexOf c, v := 1, ret := returnOf c,
      trace := s.trace ++ keyEvents s (unpack (symbolOf s c)) ++ gapEvents s,
      key := if unpack (symbolOf s c) = [] then s.key else s.invert,
      toneOn := if unpack (symbolOf s c) = [] then s.toneOn else s.toneOn && !s.toneEn }

theorem sent_space (s : State) :
    sent 32 s = { s with c := 32, ret := 32, trace := s.trace ++ [.dly (7 * s.unit)] } := rfl

theorem sent_delimiter {c : Byte} (h : c = 60 ∨ c = 62) (s : State) :
    sent c s = { s with c := c, ret := c, prosign := !s.prosign } := by
  obtain rfl | rfl := h <;> rfl

theorem sent_lookUp {c : Byte} (hsp : c ≠ 32) (hopen : c ≠ 60) (hclose : c ≠ 62) (s : State) :
    sent c s = { s with
      c := normalise c, offr := offsetOf c, idx := indexOf c, v := 1, ret := returnOf c,
      trace := s.trace ++ keyEvents s (unpack (symbolOf s c)) ++ gapEvents s,
      key := if unpack (symbolOf s c) = [] then s.key else s.invert,
      toneOn := if unpack (symbolOf s c) = [] then s.toneOn else s.toneOn && !s.toneEn } :=
  (if_neg hsp).trans (if_neg (not_or.mpr ⟨hopen, hclose⟩))

/-- The look-up of `c`, if `c` is looked up, finds a symbol byte: the character completes (R105, R124). -/
abbrev Completes (c : Byte) (s : State) : Prop := c ≠ 32 → c ≠ 60 → c ≠ 62 → symbolOf s c ≠ 0

theorem symbolOf_ne_zero {s : State} (h : NoZero s.table) (c : Byte) : symbolOf s c ≠ 0 := h _ (indexOf_lt c)

theorem completes_of_noZero {s : State} (h : NoZero s.table) (c : Byte) : Completes c s :=
  fun _ _ _ => symbolOf_ne_zero h c

/-- A character that completes is `sent`, and then it ends. -/
theorem sendCharacter_sent {c : Byte} {s : State} (h : Completes c s) :
    sendCharacter c s = .next (ended (sent c s)) := by
  obtain ⟨rfl, hsend⟩ | ⟨rfl, hsend⟩ | ⟨rfl, hsend⟩ | ⟨hsp, hopen, hclose, hsend⟩ := sendCharacter_cases c s
  · exact hsend
  · exact hsend
  · exact hsend
  · rw [hsend, lookUpAndKey_symbol (h hsp hopen hclose), sent_lookUp hsp hopen hclose]
    rfl

/-- A character that completes leaves the configuration, the inputs and the place in the sequence alone. -/
theorem sent_frame (c : Byte) (s : State) :
    SameConfig s (sent c s) ∧ (sent c s).table = s.table ∧ SameInputs s (sent c s) ∧ (sent c s).sp = s.sp ∧
    (sent c s).inseq = s.inseq ∧ (sent c s).rsp = s.rsp := by
  unfold sent
  repeat' split
  all_goals exact ⟨by constructor <;> rfl, rfl, ⟨fun _ => rfl, rfl, rfl, rfl, rfl⟩, rfl, rfl, rfl⟩

/-- The character reports the code of its class (R73). -/
theorem sent_ret (c : Byte) (s : State) : (sent c s).ret = classReturn (decodeChar c) := by
  by_cases hsp : c = 32
  · subst hsp; rfl
  by_cases hopen : c = 60
  · subst hopen; rfl
  by_cases hclose : c = 62
  · subst hclose; rfl
  rw [sent_lookUp hsp hopen hclose]
  exact returnOf_lookUp hsp hopen hclose

/-! ## A character by itself -/

theorem ended_outside {s : State} (h : s.inseq = false) :
    ended s = { s with rsp := s.rsp ++ [s.ret], phase := .idle } :=
  if_neg (by rw [h]; exact Bool.false_ne_true)

theorem ended_inside {s : State} (h : s.inseq = true) : ended s = { s with sp := s.sp + 1, phase := .fetch } := if_pos h

/-- What a character that completes keys, and the delay it takes after that (R111 to R113, R121, R122). -/
theorem sent_trace_cases (c : Byte) (s : State) :
    (c = 32 ∧ (sent c s).trace = s.trace ++ keyEvents s [] ++ [.dly (7 * s.unit)]) ∨
    ((c = 60 ∨ c = 62) ∧ (sent c s).trace = s.trace ++ keyEvents s [] ++ []) ∨
    ((c ≠ 32 ∧ c ≠ 60 ∧ c ≠ 62) ∧
      (sent c s).trace = s.trace ++ keyEvents s (unpack (symbolOf s c)) ++ gapEvents s) := by
  by_cases hsp : c = 32
  · subst hsp
    exact .inl ⟨rfl, by rw [sent_space, keyEvents_nil, List.append_nil]⟩
  by_cases hd : c = 60 ∨ c = 62
  · exact .inr (.inl ⟨hd, by rw [sent_delimiter hd, keyEvents_nil, List.append_nil, List.append_nil]⟩)
  · obtain ⟨hopen, hclose⟩ := not_or.mp hd
    exact .inr (.inr ⟨⟨hsp, hopen, hclose⟩, by rw [sent_lookUp hsp hopen hclose]⟩)

theorem length_unpack_le {b : Byte} (h : b ≠ 0) : (unpack b).length ≤ 7 := length_unpack h ▸ log2_le_seven h

theorem gapEvents_cases (s : State) : gapEvents s = [] ∨ gapEvents s = [.dly (2 * s.unit)] := by
  unfold gapEvents
  split
  · exact .inl rfl
  · exact .inr rfl

/-- A taken `SEND_CHAR` ends in `IDLE` with the events of its character, the code of whose class it returns. -/
theorem sendChar_ended {c : Byte} {s : State} (hidle : s.phase = .idle) (hbuilt : s.constructed = true)
    (hc : Completes c s) :
    ∃ t, exec (.sendChar c) s = .next t ∧ t.phase = .idle ∧ t.inseq = false ∧ t.ret = classReturn (decodeChar c) ∧
      t.rsp = s.rsp ++ [classReturn (decodeChar c)] ∧ t.trace = (sent c { s with inseq := false }).trace := by
  obtain ⟨-, -, -, -, hinseq, hrsp⟩ := sent_frame c { s with inseq := false }
  have hret := sent_ret c { s with inseq := false }
  have hended := ended_outside hinseq
  refine ⟨ended (sent c { s with inseq := false }), ?_, by rw [hended], by rw [hended, hinseq], by rw [hended, hret],
    by rw [hended, hrsp, hret], ended_trace _⟩
  rw [sendCharRunsTheClass s c hidle hbuilt, exec_char]
  exact sendCharacter_sent hc

/-- Settles O28: the command ends with the events of its character, which are those of the space, of a delimiter or of a
look-up. -/
theorem sendCharCompletes : Obligations.SendCharCompletes := by
  intro s c hidle hbuilt hzero
  obtain ⟨t, hsend, hphase, hinseq, hret, hrsp, htrace⟩ := sendChar_ended hidle hbuilt (completes_of_noZero hzero c)
  obtain ⟨rfl, hevents⟩ | ⟨hd, hevents⟩ | ⟨⟨hsp, hopen, hclose⟩, hevents⟩ :=
    sent_trace_cases c { s with inseq := false }
  · exact ⟨t, [], [.dly (7 * s.unit)], hsend, hphase, hinseq, hret, hrsp, htrace.trans hevents, by decide,
      .inr (.inr rfl), fun _ => ⟨rfl, rfl⟩, fun h => absurd h (by decide), fun h => absurd rfl h⟩
  · have hsp : c ≠ 32 := by
      rintro rfl
      exact absurd hd (by decide)
    exact ⟨t, [], [], hsend, hphase, hinseq, hret, hrsp, htrace.trans hevents, by decide, .inl rfl,
      fun h => absurd h hsp, fun _ => ⟨rfl, rfl⟩, fun _ hopen hclose => (hd.elim hopen hclose).elim⟩
  · exact ⟨t, unpack (symbolOf s c), gapEvents s, hsend, hphase, hinseq, hret, hrsp, htrace.trans hevents,
      length_unpack_le (symbolOf_ne_zero hzero c), (gapEvents_cases s).imp_right .inl, fun h => absurd h hsp,
      fun h => (h.elim hopen hclose).elim, fun _ _ _ => ⟨rfl, rfl⟩⟩

/-! ## The time of a character -/

/-- A dot takes two units, a dash four (R93, R94). -/
theorem totalTime_elementEvents {s : State} (hdash : s.dash = 3 * s.unit) (e : Bool) :
    totalTime (elementEvents s e) = (if e then 4 else 2) * s.unit := by
  rw [elementEvents, totalTime_pulse]
  cases e
  · show s.unit + s.unit = 2 * s.unit
    grind
  · show s.dash + s.unit = 4 * s.unit
    grind

/-- The elements of a symbol take the time of its dots and its dashes (R129). -/
theorem totalTime_keyEvents {s : State} (hdash : s.dash = 3 * s.unit) (es : List Bool) :
    totalTime (keyEvents s es) = (2 * (es.count false : Rat) + 4 * (es.count true : Rat)) * s.unit := by
  induction es with
  | nil =>
    show 0 = (2 * (0 : Rat) + 4 * (0 : Rat)) * s.unit
    grind
  | cons e es ih =>
    rw [keyEvents_cons, totalTime_append, totalTime_elementEvents hdash, ih]
    cases e
    · have hdots : (false :: es).count false = es.count false + 1 := List.count_cons_self
      have hdashes : (false :: es).count true = es.count true := List.count_cons_of_ne Bool.false_ne_true
      rw [hdots, hdashes, Rat.natCast_add, if_neg Bool.false_ne_true]
      grind
    · have hdots : (true :: es).count false = es.count false := List.count_cons_of_ne Bool.false_ne_true.symm
      have hdashes : (true :: es).count true = es.count true + 1 := List.count_cons_self
      rw [hdots, hdashes, Rat.natCast_add, if_pos rfl]
      grind

theorem totalTime_delay (d : Millis) : totalTime [.dly d] = d := Rat.add_zero d

theorem totalTime_gapEvents (s : State) : totalTime (gapEvents s) = (if s.prosign then 0 else 2) * s.unit := by
  unfold gapEvents
  split
  · exact (Rat.zero_mul s.unit).symm
  · exact totalTime_delay (2 * s.unit)

/-- Settles O53: the time of what a character keys and of the delay after it. -/
theorem characterDuration : Obligations.CharacterDuration := by
  intro s t c hdash hsend
  rw [exec_char] at hsend
  have htime (h : Completes c s) : totalTime t.trace = totalTime (sent c s).trace := by
    cases (sendCharacter_sent h).symm.trans hsend
    rw [ended_trace]
  refine ⟨fun hsp => ?_, fun hd => ?_, fun hsp hopen hclose hentry => ?_⟩
  · rw [htime fun h => absurd hsp h, hsp, sent_space, totalTime_append, totalTime_delay]
  · rw [htime fun _ hopen hclose => (hd.elim hopen hclose).elim, sent_delimiter hd]
  · rw [htime fun _ _ _ => hentry, sent_lookUp hsp hopen hclose, totalTime_append, totalTime_append,
      totalTime_keyEvents hdash, totalTime_gapEvents]
    grind

end Sys2Proof.Safety
end

section
/-!
A string of characters (44_timing_fsm.md R125, R126, R130): a sequence and the same characters sent one by one differ
only in where the core stands, which no character reads; and the bytes behind the terminator are not read. It settles
O32, O33, O34, O36 and O40.
-/
namespace Sys2Proof.Safety

open Sys2Proof.Machine

/-! ## The place in a sequence -/

/-- Where a core stands in the string it sends, and what it has returned: in this a character sent in a sequence differs
from one sent by itself. -/
structure Place where
  stream : List Byte
  sp : Nat
  inseq : Bool
  phase : Phase
  rsp : List Byte

/-- The core `s`, standing at `p`. -/
def placed (p : Place) (s : State) : State :=
  { s with stream := p.stream, sp := p.sp, inseq := p.inseq, phase := p.phase, rsp := p.rsp }

/-- Where the core stands. -/
def placeOf (s : State) : Place := ⟨s.stream, s.sp, s.inseq, s.phase, s.rsp⟩

theorem placed_placeOf (s : State) : placed (placeOf s) s = s := rfl

theorem config_placed (p : Place) (s : State) : SameConfig s (placed p s) := by
  constructor <;> rfl

/-- A character does the same wherever the core stands. -/
theorem sent_placed (c : Byte) (p : Place) (s : State) : sent c (placed p s) = placed p (sent c s) := by
  unfold sent
  split
  · rfl
  · split <;> rfl

/-- Inside a sequence the end of a character moves the core on to the next byte (R127). -/
theorem ended_placed_inside {p : Place} (h : p.inseq = true) (s : State) :
    ended (placed p s) = placed { p with sp := p.sp + 1, phase := .fetch } s :=
  ended_inside (s := placed p s) h

/-- Outside one it returns the code and goes to `IDLE` (R123). -/
theorem ended_placed_outside {p : Place} (h : p.inseq = false) (s : State) :
    ended (placed p s) = placed { p with rsp := p.rsp ++ [s.ret], phase := .idle } s :=
  ended_outside (s := placed p s) h

/-! ## The characters of a string -/

/-- What sending the characters of a string has done, wherever the core stands. -/
def sentAll (bs : List Byte) (s : State) : State := bs.foldl (fun u b => sent b u) s

theorem sentAll_cons (b : Byte) (bs : List Byte) (s : State) : sentAll (b :: bs) s = sentAll bs (sent b s) := rfl

theorem sent_config (c : Byte) (s : State) : SameConfig s (sent c s) := by
  obtain ⟨hconfig, -⟩ := sent_frame c s
  exact hconfig

theorem noZero_sent {s : State} (h : NoZero s.table) (c : Byte) : NoZero (sent c s).table := by
  obtain ⟨-, htable, -⟩ := sent_frame c s
  rwa [htable]

theorem sentAll_config (bs : List Byte) (s : State) : SameConfig s (sentAll bs s) := by
  induction bs generalizing s with
  | nil => exact (Keyed.refl s).config
  | cons b bs ih => exact (sent_config b s).trans (ih _)

/-- A sequence from `FETCH` sends its characters and stands behind them (R125). -/
theorem runStream_append {bs stream rsp : List Byte} {sp : Nat} {s : State} (hzero : NoZero s.table) (hbs : 0 ∉ bs)
    (rest : List Byte) :
    runStream (bs ++ rest) (placed ⟨stream, sp, true, .fetch, rsp⟩ s) =
      runStream rest (placed ⟨stream, sp + bs.length, true, .fetch, rsp⟩ (sentAll bs s)) := by
  induction bs generalizing sp s with
  | nil => rfl
  | cons b bs ih =>
    obtain ⟨hb, hbs⟩ := List.ne_and_not_mem_of_not_mem_cons hbs
    have hcompletes : Completes b (placed ⟨stream, sp, true, .fetch, rsp⟩ s) := completes_of_noZero hzero b
    have hsend := sendCharacter_sent hcompletes
    rw [sent_placed, ended_placed_inside rfl] at hsend
    have hlength : sp + (b :: bs).length = sp + 1 + bs.length := by
      rw [List.length_cons]
      omega
    rw [List.cons_append, runStream_byte (Ne.symm hb) hsend, hlength]
    exact (if_pos rfl).trans (ih (noZero_sent hzero b) hbs)

/-- The same characters, each sent by a `SEND_CHAR` of its own. -/
theorem sendAll_placed {bs : List Byte} {p : Place} {s : State} (hp : p.phase = .idle) (hb : s.constructed = true)
    (hzero : NoZero s.table) :
    ∃ q : Place, sendAll bs (placed p s) = .next (placed q (sentAll bs s)) := by
  induction bs generalizing p s with
  | nil => exact ⟨p, rfl⟩
  | cons b bs ih =>
    have hsend : exec (.sendChar b) (placed p s) =
        .next (placed { p with inseq := false, rsp := p.rsp ++ [(sent b s).ret], phase := .idle } (sent b s)) := by
      have hclass := sendCharRunsTheClass (placed p s) b hp hb
      have hcompletes : Completes b (placed { p with inseq := false } s) := completes_of_noZero hzero b
      have hsent := sendCharacter_sent hcompletes
      rw [sent_placed, ended_placed_outside rfl] at hsent
      exact (hclass.trans (exec_char b _)).trans hsent
    rw [sendAll, hsend]
    exact ih rfl ((sent_config b s).constructed.trans hb) (noZero_sent hzero b)

/-- A sequence that is accepted starts to fetch at its first byte (R125). -/
theorem exec_sendSeq_accepted {s : State} (hidle : s.phase = .idle) (hbuilt : s.constructed = true) (bs : List Byte) :
    exec (.sendSeq bs) s = runStream bs (startStream bs s) :=
  execSendSeq_taken (by simp [admitsSend, hidle, hbuilt])

theorem startStream_eq (bs : List Byte) (s : State) : startStream bs s = placed ⟨bs, 0, true, .fetch, s.rsp⟩ s := rfl

/-- A terminated sequence sends the characters before its first 0, and stands in `IDLE` at that 0 (R125, R126). -/
theorem exec_sendSeq_terminated {s : State} {bs : List Byte} (hidle : s.phase = .idle) (hbuilt : s.constructed = true)
    (hzero : NoZero s.table) (hbs : 0 ∉ bs) (rest : List Byte) :
    exec (.sendSeq (bs ++ 0 :: rest)) s =
      .next (placed ⟨bs ++ 0 :: rest, bs.length, false, .idle, s.rsp⟩ (sentAll bs s)) := by
  rw [exec_sendSeq_accepted hidle hbuilt, startStream_eq, runStream_append hzero hbs, runStream_end,
    Nat.zero_add]
  rfl

/-- Settles O32: both ways of sending the string end in the state of `sentAll`, each at its own place. -/
theorem sendSeqIsTheCharactersInOrder : Obligations.SendSeqIsTheCharactersInOrder := by
  intro s bs rest hidle hbuilt hzero hbs
  obtain ⟨q, hall⟩ := sendAll_placed (bs := bs) (p := placeOf s) (s := s) hidle hbuilt hzero
  rw [placed_placeOf] at hall
  exact ⟨_, _, exec_sendSeq_terminated hidle hbuilt hzero hbs rest, hall, rfl, rfl, rfl, rfl, rfl, rfl, rfl, rfl,
    (sentAll_config bs s).trans (config_placed _ _)⟩

/-! ## The flag -/

theorem sent_prosign (c : Byte) (s : State) : (sent c s).prosign = (s.prosign ^^ (c = 60 || c = 62)) := by
  by_cases hsp : c = 32
  · rw [hsp, sent_space]
    simp
  by_cases hd : c = 60 ∨ c = 62
  · obtain rfl | rfl := hd <;> simp [sent_delimiter]
  · obtain ⟨hopen, hclose⟩ := not_or.mp hd
    simp only [sent_lookUp hsp hopen hclose, hopen, hclose, decide_false, Bool.or_self, Bool.xor_false]

theorem delimiters_cons (b : Byte) (bs : List Byte) :
    delimiters (b :: bs) = delimiters bs + if b = 60 || b = 62 then 1 else 0 := List.countP_cons

theorem sentAll_prosign (bs : List Byte) (s : State) :
    (sentAll bs s).prosign = (s.prosign ^^ decide (delimiters bs % 2 = 1)) := by
  induction bs generalizing s with
  | nil => simp [sentAll, delimiters]
  | cons b bs ih =>
    rw [sentAll_cons, ih, sent_prosign, delimiters_cons, Bool.xor_assoc]
    congr 1
    generalize (decide (b = 60) || decide (b = 62)) = isDelimiter
    generalize delimiters bs = n
    cases isDelimiter
    · simp
    · obtain hn | hn := Nat.mod_two_eq_zero_or_one n <;> simp [Nat.add_mod, hn]

/-- Settles O33: only a delimiter complements the flag. -/
theorem prosignCountsDelimiters : Obligations.ProsignCountsDelimiters := fun s bs rest hidle hbuilt hzero hbs =>
  ⟨_, exec_sendSeq_terminated hidle hbuilt hzero hbs rest, sentAll_prosign bs s⟩

/-! ## The terminator -/

theorem exec_endSeq (s : State) : exec .endSeq s = .next { s with phase := .idle, inseq := false } := rfl

/-- Settles O34: the byte 0 of a stream is decoded to `END`. -/
theorem endReturnsToIdle : Obligations.EndReturnsToIdle := by
  refine fun s => ⟨exec_endSeq s, fun hrst hfetch hbyte => ?_⟩
  rw [step_byte hrst hfetch hbyte]
  exact exec_endSeq s

/-! ## The bytes behind the terminator -/

/-- The core `s` with another stream. -/
def withStream (bs : List Byte) (s : State) : State := { s with stream := bs }

theorem ended_withStream (bs : List Byte) (s : State) : ended (withStream bs s) = withStream bs (ended s) := by
  cases hi : s.inseq
  · rw [ended_outside hi]
    exact ended_outside (s := withStream bs s) hi
  · rw [ended_inside hi]
    exact ended_inside (s := withStream bs s) hi

theorem keyLoaded_withStream (bs : List Byte) (s : State) :
    keyLoaded (withStream bs s) = withStream bs (keyLoaded s) := by
  obtain ⟨hv, h⟩ | ⟨hv, h⟩ := keyLoaded_cases s
  · rw [h, ← ended_withStream]
    exact keyLoaded_symbol (s := withStream bs s) hv
  · rw [h]
    exact keyLoaded_zero (s := withStream bs s) hv

/-- No character reads the stream. -/
theorem sendCharacter_withStream {c : Byte} {s t : State} (h : sendCharacter c s = .next t) (bs : List Byte) :
    sendCharacter c (withStream bs s) = .next (withStream bs t) := by
  obtain ⟨rfl, hs⟩ | ⟨rfl, hs⟩ | ⟨rfl, hs⟩ | ⟨hsp, hopen, hclose, hs⟩ := sendCharacter_cases c s
  · cases hs.symm.trans h
    exact congrArg Host.Outcome.next (ended_withStream bs (wordGap (setRet 32 (latch 32 s))))
  · cases hs.symm.trans h
    exact congrArg Host.Outcome.next (ended_withStream bs (setRet 60 (togglePro (latch 60 s))))
  · cases hs.symm.trans h
    exact congrArg Host.Outcome.next (ended_withStream bs (setRet 62 (togglePro (latch 62 s))))
  · cases (hs.trans (lookUpAndKey_next c s)).symm.trans h
    rw [sendCharacter_lookUp hsp hopen hclose, lookUpAndKey_next]
    exact congrArg Host.Outcome.next (keyLoaded_withStream bs { resolve (latch c s) with v := symbolOf s c })

/-- The loop of R125 reads the bytes up to the first 0, and nothing else of the stream. -/
theorem runStream_withStream {bs rest : List Byte} {s t : State} (h : runStream (bs ++ 0 :: rest) s = .next t)
    (other stream : List Byte) : runStream (bs ++ 0 :: other) (withStream stream s) = .next (withStream stream t) := by
  induction bs generalizing s with
  | nil =>
    rw [List.nil_append, runStream_end] at h ⊢
    cases h
    rfl
  | cons b bs ih =>
    rw [List.cons_append] at h ⊢
    by_cases hb : b = 0
    · rw [hb, runStream_end] at h ⊢
      cases h
      rfl
    · obtain ⟨u, hu⟩ := sendCharacter_next b s
      rw [runStream_byte hb hu] at h
      rw [runStream_byte hb (sendCharacter_withStream hu stream)]
      by_cases hfetch : u.phase = .fetch
      · rw [if_pos hfetch] at h
        exact (if_pos hfetch).trans (ih h)
      · rw [if_neg hfetch] at h
        cases h
        exact if_neg hfetch

/-- The stream is no part of the observation (R24). -/
theorem sameObservation_withStream (bs : List Byte) (s : State) : sameObservation s (withStream bs s) :=
  ⟨rfl, rfl, by constructor <;> first | rfl | (constructor <;> rfl)⟩

/-- Settles O36: a command that is held changes nothing; one that is taken ends with the streams as the only difference. -/
theorem bytesBehindTheEndAreNotObserved : Obligations.BytesBehindTheEndAreNotObserved := by
  intro s bs rest other
  cases hadmits : admitsSend s with
  | false => exact ⟨s, s, execSendSeq_held hadmits, execSendSeq_held hadmits, sameObservation_withStream s.stream s⟩
  | true =>
    obtain ⟨t, ht⟩ := runStream_next (bs ++ 0 :: rest) (startStream (bs ++ 0 :: rest) s)
    exact ⟨t, _, (execSendSeq_taken hadmits).trans ht,
      (execSendSeq_taken hadmits).trans (runStream_withStream ht other (bs ++ 0 :: other)),
      sameObservation_withStream _ t⟩

/-! ## Byte by byte -/

/-- The core is about to fetch the bytes `bs`, and nothing keeps it from sending them. -/
structure Awaits (bs : List Byte) (s : State) : Prop where
  rst : s.rst = false
  phase : s.phase = .fetch
  inseq : s.inseq = true
  noZero : NoZero s.table
  bytes : s.stream.drop s.sp = bs

/-- The byte that is fetched next. -/
theorem Awaits.next_byte {b : Byte} {bs : List Byte} {s : State} (h : Awaits (b :: bs) s) :
    s.stream[s.sp]? = some b := by
  rw [← List.head?_drop, h.bytes, List.head?_cons]

/-- A character sent leaves the core about to fetch the bytes behind it. -/
theorem Awaits.send_byte {b : Byte} {bs : List Byte} {s : State} (h : Awaits (b :: bs) s) :
    sendCharacter b s = .next (ended (sent b s)) ∧ Awaits bs (ended (sent b s)) := by
  obtain ⟨-, htable, hinputs, hsp, hinseq, -⟩ := sent_frame b s
  refine ⟨sendCharacter_sent (completes_of_noZero h.noZero b), ?_⟩
  rw [ended_inside (hinseq.trans h.inseq)]
  refine ⟨hinputs.rst.trans h.rst, rfl, hinseq.trans h.inseq, htable.symm ▸ h.noZero, ?_⟩
  rw [hinputs.stream, hsp, ← List.tail_drop, h.bytes, List.tail_cons]

theorem awaits_startStream {s : State} (hrst : s.rst = false) (hzero : NoZero s.table) (bs : List Byte) :
    Awaits bs (startStream bs s) := ⟨hrst, rfl, rfl, hzero, rfl⟩

/-- Steps from `FETCH` through the terminator make the loop of R125. -/
theorem Awaits.run {bs rest : List Byte} {s : State} (h : Awaits (bs ++ 0 :: rest) s) (hbs : 0 ∉ bs) :
    core.run (bs.length + 1) s = runStream (bs ++ 0 :: rest) s := by
  induction bs generalizing s with
  | nil =>
    obtain ⟨-, hend⟩ := endReturnsToIdle s
    have hstep := hend h.rst h.phase h.next_byte
    rw [List.nil_append, runStream_end]
    exact run_succ_next hstep 0
  | cons b bs ih =>
    obtain ⟨hb, hbs⟩ := List.ne_and_not_mem_of_not_mem_cons hbs
    obtain ⟨hsend, hrest⟩ := h.send_byte
    have hstep : step s = .next (ended (sent b s)) := by
      rw [step_byte h.rst h.phase h.next_byte, exec_streamByte, if_neg (Ne.symm hb), hsend]
    rw [List.length_cons, run_succ_next hstep, ih hrest hbs, List.cons_append, runStream_byte (Ne.symm hb) hsend,
      if_pos hrest.phase]

/-- Settles O40: the stream started as `SEND_SEQ` starts it. -/
theorem steppingTheStreamIsSendSeq : Obligations.SteppingTheStreamIsSendSeq := by
  intro s bs rest hrst hidle hbuilt hzero hbs
  rw [exec_sendSeq_accepted hidle hbuilt]
  exact (awaits_startStream hrst hzero _).run hbs

end Sys2Proof.Safety
end

section
/-!
The phase machine (44_timing_fsm.md R127, R128): what a row issues and keeps, what a step runs at each fetch point,
and that the rows from `CLASSIFY`, from `FETCH` and from `IDLE` reach the states of the big-step rules. It settles
O43, O51, O37, O38 and O39.
-/
namespace Sys2Proof.Safety

open Sys2Proof.Machine

/-! ## What a row keeps and issues -/

/-- Settles O43: a reset makes the invariant anew, and a row of R127 keeps it. -/
theorem smallStepKeepsInvariant : Obligations.SmallStepKeepsInvariant := by
  intro s t h ht
  cases hrst : s.rst with
  | true =>
    have hreset : smallStep s = .next (hardwareReset s) := if_pos hrst
    cases hreset.symm.trans ht
    exact inv_hardwareReset h
  | false => exact phaseStep_keeps_inv h ((smallStep_row hrst).symm.trans ht)

/-- In a running command a row issues one event or none (R127). -/
theorem phaseStep_trace {s t : State} (hp : s.phase ≠ .idle) (h : phaseStep s = .next t) :
    t.trace = s.trace ∨ ∃ e, t.trace = s.trace ++ [e] := by
  cases hq : s.phase with
  | idle => exact absurd hq hp
  | fetch => obtain rfl | rfl | ⟨b, rfl⟩ := phaseFetch_cases ((row_fetch hq).symm.trans h) <;> exact .inl rfl
  | classify => obtain rfl | rfl | rfl := phaseClassify_cases ((row_classify hq).symm.trans h) <;> exact .inl rfl
  | load =>
    obtain ⟨b, rfl⟩ := phaseLoad_cases ((row_load hq).symm.trans h)
    exact .inl rfl
  | test =>
    rw [row_test hq, phaseTest] at h
    split at h <;> cases h <;> exact .inl rfl
  | done =>
    cases (row_done hq).symm.trans h
    exact .inl (ended_trace s)
  | wordGap => cases (row_wordGap hq).symm.trans h; exact .inr ⟨_, rfl⟩
  | pTon => cases (row_pTon hq).symm.trans h; exact .inr ⟨_, rfl⟩
  | pOn => cases (row_pOn hq).symm.trans h; exact .inr ⟨_, rfl⟩
  | pMark => cases (row_pMark hq).symm.trans h; exact .inr ⟨_, rfl⟩
  | pOff => cases (row_pOff hq).symm.trans h; exact .inr ⟨_, rfl⟩
  | pTof => cases (row_pTof hq).symm.trans h; exact .inr ⟨_, rfl⟩
  | pGap => cases (row_pGap hq).symm.trans h; exact .inr ⟨_, rfl⟩
  | letterGap => cases (row_letterGap hq).symm.trans h; exact .inr ⟨_, rfl⟩

/-- In `IDLE` a row issues the two events of a construction or nothing (R85, R127). -/
theorem phaseIdle_trace {s t : State} (hp : s.phase = .idle) (h : phaseIdle s = .next t) :
    t.trace = s.trace ∨ ∃ p l, t.trace = s.trace ++ [.cfg p, .lvl p l] := by
  unfold phaseIdle at h
  split at h
  · cases h
    exact .inl rfl
  next k rest _ =>
  have htaken : ({ s with host := rest } : State).phase = .idle := hp
  split at h
  · rw [execConstruct3_taken htaken, construct_eq] at h
    cases h
    exact .inr ⟨_, _, rfl⟩
  split at h
  · rw [execConstruct5_taken htaken, construct_eq] at h
    cases h
    exact .inr ⟨_, _, rfl⟩
  split at h
  · cases h
    exact .inl rfl
  split at h <;>
  · cases h
    exact .inl rfl

/-- Settles O51: phase by phase, and in `IDLE` command by command. -/
theorem phasesIssueOneEventAtMost : Obligations.PhasesIssueOneEventAtMost := by
  intro s t h
  by_cases hp : s.phase = .idle
  · exact (phaseIdle_trace hp ((row_idle hp).symm.trans h)).imp_right fun htwo => .inr ⟨hp, htwo⟩
  · exact (phaseStep_trace hp h).imp_right .inl

/-! ## What a step runs -/

/-- The four selectors of a command word (R49). -/
theorem decodeCommand_cases (k : CommandWord) :
    (k.op = 0 ∧ decodeCommand k = .construct3 k.pin k.speed k.invert) ∨
    (k.op = 1 ∧ decodeCommand k = .construct5 k.pin k.speed k.toneCh k.freq k.invert) ∨
    (k.op = 2 ∧ decodeCommand k = .sendChar k.char) ∨
    ((k.op ≠ 0 ∧ k.op ≠ 1 ∧ k.op ≠ 2) ∧ decodeCommand k = .sendSeq k.stream) := by
  unfold decodeCommand
  split
  · next h0 => exact .inl ⟨h0, rfl⟩
  split
  · next h1 => exact .inr (.inl ⟨h1, rfl⟩)
  split
  · next h2 => exact .inr (.inr (.inl ⟨h2, rfl⟩))
  · next h0 h1 h2 => exact .inr (.inr (.inr ⟨⟨h0, h1, h2⟩, rfl⟩))

/-- A command that is not accepted changes nothing (R89, R128, R162). -/
theorem exec_command_held {k : CommandWord} {s : State} (h : accepts (decodeCommand k) s = false) :
    exec (decodeCommand k) s = .next s := by
  obtain ⟨-, hd⟩ | ⟨-, hd⟩ | ⟨-, hd⟩ | ⟨-, hd⟩ := decodeCommand_cases k <;> rw [hd] at h ⊢
  · exact execConstruct3_held (of_decide_eq_false h) _ _ _
  · exact execConstruct5_held (of_decide_eq_false h) _ _ _ _ _
  · exact execSendChar_held h
  · exact execSendSeq_held h

/-- In `IDLE` a step runs the presented command. -/
theorem step_command {s : State} {k : CommandWord} {rest : List CommandWord} (hrst : s.rst = false)
    (hp : s.phase = .idle) (hk : s.host = k :: rest) :
    step s = exec (decodeCommand k) (take (decodeCommand k) s) := by
  have hf : fetch s = some (decodeCommand k) := by simp [fetch, hp, hk]
  rw [step_fetch hrst hf, retire_of_ne (by simp [hp])]

/-- The element whose instruction a step of the decoder runs (R101). -/
theorem exec_element (s : State) :
    ∃ t, exec (if s.v.getLsbD 0 then .dash else .dot) s = .next t ∧ keyElement s = { t with v := t.v >>> 1 } := by
  unfold keyElement
  cases s.v.getLsbD 0
  · exact ⟨dotPulse s, rfl, rfl⟩
  · exact ⟨dashPulse s, rfl, rfl⟩

theorem step_classify {s : State} (hrst : s.rst = false) (hp : s.phase = .classify) :
    step s = exec (decodeChar s.c) s := by
  have hf : fetch s = some (decodeChar s.c) := by simp [fetch, hp]
  rw [step_fetch hrst hf, take_of_ne (by simp [hp]), retire_of_ne (by simp [hp])]

/-- Settles O37, one fetch point after the other. -/
theorem stepRunsTheDecodedInstruction : Obligations.StepRunsTheDecodedInstruction := by
  intro s hrst
  refine ⟨fun i hf hp => ?_, fun k rest hp hk ha => ?_, fun k rest hp hk ha => ?_, fun b => step_byte hrst,
    step_classify hrst, fun hp hv => ?_, step_phase hrst⟩
  · rw [step_fetch hrst hf, retire_of_ne hp]
  · rw [step_command hrst hp hk, take_accepted ha hk]
  · rw [step_command hrst hp hk, take_held ha, exec_command_held ha]
  · obtain ⟨t, hexec, hkey⟩ := exec_element s
    exact ⟨t, hexec, hkey ▸ step_test hrst hp hv⟩

/-! ## The rows of a character -/

/-- The rows from `TEST` on the terminator take the letter gap and end the character (R122, R123). -/
theorem gap_phases {s : State} (hp : s.phase = .test) (hv : s.v = 1) :
    ∃ n, phaseRun n s = .next (finish (letterGap s)) := by
  have htest : phaseStep s = .next (setPhase (if gapDue s then .letterGap else .done) s) := by
    rw [row_test hp]
    exact if_neg fun h => h hv
  cases hgap : gapDue s with
  | false =>
    rw [hgap] at htest
    refine ⟨2, ?_⟩
    rw [phaseRun_next htest, phaseRun_next (row_done rfl), setPhase_finish, letterGap, hgap]
    rfl
  | true =>
    rw [hgap] at htest
    refine ⟨3, ?_⟩
    rw [phaseRun_next htest, phaseRun_next (row_letterGap rfl), phaseRun_next (row_done rfl), setPhase_finish,
      letterGap, hgap]
    exact congrArg Host.Outcome.next (setPhase_finish .letterGap (delay (2 * s.unit) s))

theorem keyRounds_setPhase (n : Nat) (p : Phase) (s : State) :
    keyRounds n (setPhase p s) = setPhase p (keyRounds n s) := by
  rw [keyRounds_eq, keyRounds_eq]
  rfl

theorem letterGap_setPhase (p : Phase) (s : State) : letterGap (setPhase p s) = setPhase p (letterGap s) := by
  rw [letterGap_eq, letterGap_eq]
  rfl

/-- The rows from `TEST` on a loaded symbol byte key it to its end (R121 to R123). -/
theorem loaded_phases {s : State} (hv : s.v ≠ 0) : ∃ n, phaseRun n (setPhase .test s) = .next (keyLoaded s) := by
  have hone : (keyRounds 7 s).v = 1 := by
    rw [keyRounds_eq]
    exact shifted_symbol s.v hv
  obtain ⟨m, hrounds⟩ := rounds_phases 7 (setPhase .test s) rfl
  rw [keyRounds_setPhase] at hrounds
  obtain ⟨n, hgap⟩ := gap_phases (s := setPhase .test (keyRounds 7 s)) rfl hone
  rw [letterGap_setPhase, setPhase_finish] at hgap
  have hloaded : keyLoaded s = finish (letterGap (keyRounds 7 s)) := if_pos hone
  exact ⟨m + n, by rw [phaseRun_add hrounds, hgap, hloaded]⟩

theorem load_setPhase (p : Phase) (s : State) : load (setPhase p s) = (load s).map (setPhase p) := by
  unfold load
  rw [setPhase_table, setPhase_idx]
  cases Memory.read s.table s.idx.toNat <;> rfl

/-- The rows from `CLASSIFY` on a look-up character (R110, steps 3 to 9). -/
theorem lookUp_phases {c : Byte} {s : State} (hsp : c ≠ 32) (hopen : c ≠ 60) (hclose : c ≠ 62)
    (hentry : symbolOf s c ≠ 0) :
    ∃ n, phaseRun n (setPhase .classify (latch c s)) = lookUpAndKey c s := by
  obtain ⟨n, hkeyed⟩ := loaded_phases (s := { resolve (latch c s) with v := symbolOf s c }) hentry
  have hclassify : phaseStep (setPhase .classify (latch c s)) = .next (setPhase .load (resolve (latch c s))) :=
    (row_classify rfl).trans (classify_lookUp hsp hopen hclose)
  have hload : phaseStep (setPhase .load (resolve (latch c s))) =
      .next (setPhase .test { resolve (latch c s) with v := symbolOf s c }) := by
    rw [row_load rfl, phaseLoad, load_setPhase, load_resolve]
    rfl
  exact ⟨n + 1 + 1, by rw [phaseRun_next hclassify, phaseRun_next hload, hkeyed, lookUpAndKey_next]⟩

/-- The rows from `CLASSIFY` on the space (R111). -/
theorem space_phases (s : State) : phaseRun 3 (setPhase .classify (latch 32 s)) = execSp s := by
  rw [phaseRun_next ((row_classify rfl).trans (classify_space rfl)), phaseRun_next (row_wordGap rfl),
    phaseRun_next (row_done rfl), setPhase_finish]
  exact congrArg Host.Outcome.next (setPhase_finish .wordGap (wordGap (setRet 32 (latch 32 s))))

/-- The rows from `CLASSIFY` on a delimiter (R112, R113). -/
theorem delimiter_phases {c : Byte} (hc : c = 60 ∨ c = 62) (s : State) :
    phaseRun 2 (setPhase .classify (latch c s)) = .next (delimiter c s) := by
  rw [phaseRun_next ((row_classify rfl).trans (classify_delimiter hc)), phaseRun_next (row_done rfl), setPhase_finish]
  exact congrArg Host.Outcome.next (setPhase_finish .classify (setRet c (togglePro (latch c s))))

/-- The rows from `CLASSIFY` reach the state of the big-step rule, where the character completes (R127). -/
theorem character_phases {c : Byte} {s : State} (h : Completes c s) :
    ∃ n, phaseRun n (setPhase .classify (latch c s)) = sendCharacter c s := by
  obtain ⟨rfl, hsend⟩ | ⟨rfl, hsend⟩ | ⟨rfl, hsend⟩ | ⟨hsp, hopen, hclose, hsend⟩ := sendCharacter_cases c s
  · exact ⟨3, (space_phases s).trans hsend.symm⟩
  · exact ⟨2, (delimiter_phases (.inl rfl) s).trans hsend.symm⟩
  · exact ⟨2, (delimiter_phases (.inr rfl) s).trans hsend.symm⟩
  · rw [hsend]
    exact lookUp_phases hsp hopen hclose (h hsp hopen hclose)

/-- Settles O38: in a table without 0 every character completes. -/
theorem phasesReachTheBigStepCharacter : Obligations.PhasesReachTheBigStepCharacter := by
  intro s c hzero
  rw [exec_char]
  exact character_phases (completes_of_noZero hzero c)

/-! ## The rows of a command -/

/-- The rows from `FETCH` through the terminator make the loop of R125. -/
theorem Awaits.phases {bs rest : List Byte} {s : State} (h : Awaits (bs ++ 0 :: rest) s) (hbs : 0 ∉ bs) :
    ∃ n, phaseRun n s = runStream (bs ++ 0 :: rest) s := by
  induction bs generalizing s with
  | nil =>
    have hrow : phaseStep s = execEndSeq s := by
      rw [row_fetch h.phase, phaseFetch, h.next_byte]
      rfl
    exact ⟨1, (phaseRun_next hrow 0).trans (runStream_end rest s).symm⟩
  | cons b bs ih =>
    obtain ⟨hb, hbs⟩ := List.ne_and_not_mem_of_not_mem_cons hbs
    obtain ⟨hsend, hrest⟩ := h.send_byte
    have hrow : phaseStep s = .next (setPhase .classify (latch b s)) := by
      rw [row_fetch h.phase, phaseFetch, h.next_byte]
      exact if_neg (Ne.symm hb)
    obtain ⟨m, hchar⟩ := character_phases (completes_of_noZero h.noZero b)
    obtain ⟨n, hn⟩ := ih hrest hbs
    refine ⟨m + n + 1, ?_⟩
    rw [phaseRun_next hrow, phaseRun_add (hchar.trans hsend), hn, List.cons_append, runStream_byte (Ne.symm hb) hsend,
      if_pos hrest.phase]

/-- What an idle core does with an accepted command, and the row it takes first (R127). -/
theorem accepted_cases {s : State} {k : CommandWord} {rest : List CommandWord} (hp : s.phase = .idle)
    (hk : s.host = k :: rest) (ha : accepts (decodeCommand k) s = true) :
    phaseStep s = exec (decodeCommand k) { s with host := rest } ∨
    (admitsSend s = true ∧ decodeCommand k = .sendChar k.char ∧
      phaseStep s = .next (setPhase .classify (latch k.char { s with host := rest, inseq := false }))) ∨
    (admitsSend s = true ∧ decodeCommand k = .sendSeq k.stream ∧
      phaseStep s = .next (startStream k.stream { s with host := rest })) := by
  rw [row_idle hp, phaseIdle, hk]
  obtain ⟨h0, hd⟩ | ⟨h1, hd⟩ | ⟨h2, hd⟩ | ⟨⟨h0, h1, h2⟩, hd⟩ := decodeCommand_cases k <;> rw [hd] at ha ⊢
  · exact .inl (if_pos h0)
  · have h0 : k.op ≠ 0 := by simp [h1]
    exact .inl ((if_neg h0).trans (if_pos h1))
  · have h0 : k.op ≠ 0 := by simp [h2]
    have h1 : k.op ≠ 1 := by simp [h2]
    have hadmits : admitsSend s = true := ha
    have hfree : ¬ (!admitsSend s) = true := by simp [hadmits]
    exact .inr (.inl ⟨hadmits, rfl,
      (if_neg h0).trans ((if_neg h1).trans ((if_neg hfree).trans (if_pos h2)))⟩)
  · have hadmits : admitsSend s = true := ha
    have hfree : ¬ (!admitsSend s) = true := by simp [hadmits]
    exact .inr (.inr ⟨hadmits, rfl,
      (if_neg h0).trans ((if_neg h1).trans ((if_neg hfree).trans (if_neg h2)))⟩)

theorem phaseRun_one (s : State) : phaseRun 1 s = phaseStep s := by
  rw [phaseRun]
  cases phaseStep s <;> rfl

/-- Settles O39: a construction is one row, a send the row that takes it and the rows of its character or its stream. -/
theorem phasesReachTheBigStepCommand : Obligations.PhasesReachTheBigStepCommand := by
  intro s k rest hrst hp hzero hk ha hwf
  rw [step_command hrst hp hk, take_accepted ha hk]
  obtain hrow | ⟨hadmits, hd, hrow⟩ | ⟨hadmits, hd, hrow⟩ := accepted_cases hp hk ha
  · exact ⟨0, (phaseRun_one s).trans hrow⟩
  · obtain ⟨n, hn⟩ := character_phases (s := { s with host := rest, inseq := false }) (completes_of_noZero hzero k.char)
    refine ⟨n, ?_⟩
    rw [phaseRun_next hrow, hn, hd]
    exact (execSendChar_taken (s := { s with host := rest }) hadmits).symm
  · rw [hd] at hwf ⊢
    obtain ⟨bs, tail, hstream, hbs⟩ := List.eq_append_cons_of_mem (List.contains_iff_mem.mp hwf)
    have hawaits := awaits_startStream (s := { s with host := rest }) hrst hzero (bs ++ 0 :: tail)
    obtain ⟨n, hn⟩ := hawaits.phases hbs
    refine ⟨n, ?_⟩
    rw [hstream] at hrow ⊢
    rw [phaseRun_next hrow, hn]
    exact (execSendSeq_taken (s := { s with host := rest }) hadmits).symm

end Sys2Proof.Safety
end

section
/-!
What 60_exceptions.md says of one core: the code 35 is reported exactly by the classes that stand for the placeholder and by
`#` itself (R141), no run stops (R140, R144), only a construction changes the configuration (R146), and the delays
requested are positive and as long as R147 lists them. It settles O29, O45, O47 and O52.
-/
namespace Sys2Proof.Safety

open Sys2Proof.Machine

/-! ## The code that reports the anomaly -/

/-- Class by class, the codes that are reported as 35 (R73, R141). -/
theorem classReturn_eq_placeholder_iff {i : Instr} {c : Byte} (hword : encode i = .charWord c)
    (hwf : wellFormed i = true) :
    classReturn i = 35 ↔ mnemonic i = "CTRL" ∨ mnemonic i = "OOR" ∨ mnemonic i = "OORF" ∨ c = 35 := by
  cases i with
  | ctrl | oor | oorf => simp [classReturn, mnemonic]
  | sp | proOpen | proClose =>
    cases hword
    decide
  | sym | acc =>
    cases hword
    simp [classReturn, mnemonic]
  | low =>
    cases hword
    obtain ⟨hlo, hhi⟩ := wellFormed_low_iff.mp hwf
    simp only [classReturn, mnemonic, String.reduceEq, false_or]
    bv_omega
  | accl =>
    cases hword
    have hlo : 0xE0 ≤ c := accentedLower_range hwf
    simp only [classReturn, mnemonic, String.reduceEq, false_or]
    bv_omega
  | construct3 | construct5 | sendChar | sendSeq | dot | dash | endSeq => cases hword

/-- Settles O29: the command returns the code of the class of its character, and no other byte. -/
theorem placeholderReportsTheAnomaly : Obligations.PlaceholderReportsTheAnomaly := by
  intro s c hidle hbuilt hzero
  obtain ⟨t, hsend, -, -, -, hrsp, -⟩ := sendChar_ended hidle hbuilt (completes_of_noZero hzero c)
  refine ⟨t, hsend, ?_⟩
  rw [hrsp, List.append_cancel_left_eq, List.singleton_inj]
  exact classReturn_eq_placeholder_iff (encode_decodeChar c) (wellFormed_decodeChar c)

/-! ## No run stops -/

theorem phaseIdle_next (s : State) : ∃ t, phaseIdle s = .next t := by
  unfold phaseIdle
  split
  · exact ⟨_, rfl⟩
  next k rest _ =>
  split
  · exact everyInstructionAnswersANextState (.construct3 k.pin k.speed k.invert) _
  split
  · exact everyInstructionAnswersANextState (.construct5 k.pin k.speed k.toneCh k.freq k.invert) _
  repeat' split
  all_goals exact ⟨_, rfl⟩

theorem phaseFetch_next (s : State) : ∃ t, phaseFetch s = .next t := by
  unfold phaseFetch
  repeat' split
  all_goals exact ⟨_, rfl⟩

theorem phaseClassify_next (s : State) : ∃ t, phaseClassify s = .next t := by
  unfold phaseClassify
  repeat' split
  all_goals exact ⟨_, rfl⟩

theorem phaseTest_next (s : State) : ∃ t, phaseTest s = .next t := by
  unfold phaseTest
  split <;> exact ⟨_, rfl⟩

/-- The one row that can stop reads the table, and inside its range it does not (R39). -/
theorem phaseLoad_next {s : State} (h : s.idx.toNat < 70) : ∃ t, phaseLoad s = .next t := by
  rw [phaseLoad, load, Memory.read_inside h]
  exact ⟨_, rfl⟩

theorem phaseStep_next {s : State} (hrange : s.phase = .load → s.idx.toNat < 70) : ∃ t, phaseStep s = .next t := by
  cases hq : s.phase with
  | idle => exact row_idle hq ▸ phaseIdle_next s
  | fetch => exact row_fetch hq ▸ phaseFetch_next s
  | classify => exact row_classify hq ▸ phaseClassify_next s
  | load => exact row_load hq ▸ phaseLoad_next (hrange hq)
  | test => exact row_test hq ▸ phaseTest_next s
  | wordGap => exact ⟨_, row_wordGap hq⟩
  | pTon => exact ⟨_, row_pTon hq⟩
  | pOn => exact ⟨_, row_pOn hq⟩
  | pMark => exact ⟨_, row_pMark hq⟩
  | pOff => exact ⟨_, row_pOff hq⟩
  | pTof => exact ⟨_, row_pTof hq⟩
  | pGap => exact ⟨_, row_pGap hq⟩
  | letterGap => exact ⟨_, row_letterGap hq⟩
  | done => exact ⟨_, row_done hq⟩

theorem retire_next (s t : State) : ∃ u, retire s (.next t) = .next u := by
  unfold retire
  split <;> exact ⟨_, rfl⟩

/-- A step is a reset, an instruction, which always answers (O44), or a row of R127, which the invariant keeps in range. -/
theorem Inv.step_next {s : State} (h : Inv s) : ∃ t, step s = .next t := by
  cases hrst : s.rst with
  | true => exact ⟨_, step_reset hrst⟩
  | false =>
    cases hf : fetch s with
    | some i =>
      obtain ⟨t, ht⟩ := everyInstructionAnswersANextState i (take i s)
      rw [step_fetch hrst hf, ht]
      exact retire_next s t
    | none =>
      rw [step_phase hrst hf]
      exact phaseStep_next h.range

/-- Settles O45, by induction on the length of the run: a step does not stop, and it keeps the invariant (O42). -/
theorem noRunEverStops : Obligations.NoRunEverStops := by
  intro s n hs
  induction n generalizing s with
  | zero => exact ⟨s, rfl, hs⟩
  | succ n ih =>
    obtain ⟨u, hu⟩ := hs.step_next
    rw [run_succ_next hu]
    exact ih u (stepKeepsInvariant s u hs hu)

/-! ## The configuration -/

/-- Neither the configuration nor the table and the inputs differ. -/
structure Undisturbed (s t : State) : Prop where
  config : SameConfig s t
  inputs : SameInputs s t

theorem Undisturbed.trans {s t u : State} (h : Undisturbed s t) (h' : Undisturbed t u) : Undisturbed s u :=
  ⟨h.config.trans h'.config, h.inputs.trans h'.inputs⟩

theorem Keyed.undisturbed {s t : State} (h : Keyed s t) : Undisturbed s t := ⟨h.config, h.inputs⟩

theorem Undisturbed.refl (s : State) : Undisturbed s s := (Keyed.refl s).undisturbed

/-- Writing `INSEQ` or the phase. -/
theorem undisturbed_place (s : State) (inseq : Bool) (phase : Phase) :
    Undisturbed s { s with inseq := inseq, phase := phase } :=
  ⟨by constructor <;> rfl, ⟨fun _ => rfl, rfl, rfl, rfl, rfl⟩⟩

theorem undisturbed_pulse (mark : Millis) (s : State) : Undisturbed s (pulse mark s) := by
  rw [pulse_eq]
  exact ⟨by constructor <;> rfl, ⟨fun _ => rfl, rfl, rfl, rfl, rfl⟩⟩

theorem undisturbed_sendCharacter {c : Byte} {s t : State} (h : sendCharacter c s = .next t) : Undisturbed s t := by
  obtain ⟨u, hkeyed, hcloses⟩ := sendCharacter_closes h
  obtain ⟨hsteady, hinputs, -⟩ := hcloses.frame
  exact hkeyed.undisturbed.trans ⟨hsteady.config, hinputs⟩

theorem undisturbed_runStream {bs : List Byte} {s t : State} (hp : s.phase = .fetch) (h : runStream bs s = .next t) :
    Undisturbed s t :=
  runStream_keeps (P := Undisturbed s) (fun u _ hu => hu.trans (undisturbed_place u false .idle))
    (fun _ _ _ _ hu hc => hu.trans (undisturbed_sendCharacter hc)) hp (.refl s) h

theorem undisturbed_sendChar {c : Byte} {s t : State} (h : execSendChar c s = .next t) : Undisturbed s t := by
  cases hadmits : admitsSend s with
  | false =>
    cases (execSendChar_held hadmits).symm.trans h
    exact .refl s
  | true =>
    rw [execSendChar_taken hadmits] at h
    exact (undisturbed_place s false s.phase).trans (undisturbed_sendCharacter h)

/-- `SEND_SEQ` is held, or it disturbs nothing once its stream is set. -/
theorem sendSeq_undisturbed {bs : List Byte} {s t : State} (h : execSendSeq bs s = .next t) :
    t = s ∨ Undisturbed (startStream bs s) t := by
  cases hadmits : admitsSend s with
  | false =>
    cases (execSendSeq_held hadmits).symm.trans h
    exact .inl rfl
  | true =>
    rw [execSendSeq_taken hadmits] at h
    exact .inr (undisturbed_runStream rfl h)

/-- Neither a character nor an element nor a command but a construction and `SEND_SEQ` disturbs anything. -/
theorem exec_undisturbed {i : Instr} {s t : State} (hi : isConstruct i = false) (hseq : ∀ bs, i ≠ .sendSeq bs)
    (h : exec i s = .next t) : Undisturbed s t := by
  cases i with
  | construct3 | construct5 => cases hi
  | sendSeq bs => exact absurd rfl (hseq bs)
  | sendChar => exact undisturbed_sendChar h
  | dot | dash =>
    cases h
    exact undisturbed_pulse _ s
  | endSeq =>
    cases h
    exact undisturbed_place s false .idle
  | ctrl | sp | sym | proOpen | proClose | low | oor | acc | oorf | accl =>
    obtain ⟨hconfig, hinputs, -⟩ := characterFrame _ s t rfl h
    exact ⟨hconfig, hinputs⟩

/-- Settles O47: `SEND_SEQ` disturbs the stream and nothing else, any other instruction nothing at all. -/
theorem onlyConstructionConfigures : Obligations.OnlyConstructionConfigures := by
  intro i s t hi h
  by_cases hseq : ∃ bs, i = .sendSeq bs
  · obtain ⟨bs, rfl⟩ := hseq
    have hstream : (∀ bs', Instr.sendSeq bs ≠ .sendSeq bs') → t.stream = s.stream := fun hne => absurd rfl (hne bs)
    obtain rfl | ⟨hconfig, hinputs⟩ := sendSeq_undisturbed h
    · exact ⟨(Keyed.refl t).config, fun _ => rfl, rfl, rfl, rfl, hstream⟩
    · have hstart : SameConfig s (startStream bs s) := by constructor <;> rfl
      exact ⟨hstart.trans hconfig, hinputs.bytes, hinputs.host, hinputs.rst, hinputs.free, hstream⟩
  · obtain ⟨hconfig, hinputs⟩ := exec_undisturbed hi (fun bs hbs => hseq ⟨bs, hbs⟩) h
    exact ⟨hconfig, hinputs.bytes, hinputs.host, hinputs.rst, hinputs.free, fun _ => hinputs.stream⟩

/-! ## The delays -/

/-- A delay that R147 allows a core with the unit duration `u` to request. -/
def Timed (u d : Millis) : Prop := 0 < d ∧ (d = u ∨ d = 2 * u ∨ d = 3 * u ∨ d = 7 * u)

/-- `t` comes after `s`, and the delays requested in between are those of a core with the unit duration `u`. -/
def Requests (u : Millis) (s t : State) : Prop :=
  ∃ evs, t.trace = s.trace ++ evs ∧ ∀ d, Event.dly d ∈ evs → Timed u d

theorem Requests.of_notDelay {u : Millis} {s t : State} {evs : List Event} (htrace : t.trace = s.trace ++ evs)
    (h : ∀ e ∈ evs, notDelay e = true) : Requests u s t :=
  ⟨evs, htrace, fun d hd => absurd (h (.dly d) hd) Bool.false_ne_true⟩

theorem Requests.of_trace_eq {u : Millis} {s t : State} (h : t.trace = s.trace) : Requests u s t :=
  .of_notDelay (h.trans (List.append_nil _).symm) nofun

theorem Requests.trans {u : Millis} {r s t : State} (h : Requests u r s) (h' : Requests u s t) : Requests u r t := by
  obtain ⟨evs, htrace, htimed⟩ := h
  obtain ⟨evs', htrace', htimed'⟩ := h'
  refine ⟨evs ++ evs', by rw [htrace', htrace, List.append_assoc], fun d hd => ?_⟩
  exact (List.mem_append.mp hd).elim (htimed d) (htimed' d)

/-- The core runs at the unit duration `u` (R83, R84). -/
structure RunsAt (u : Millis) (s : State) : Prop where
  unit : s.unit = u
  dash : s.dash = 3 * u
  pos : 0 < u

theorem Inv.runsAt {s : State} (h : Inv s) (hbuilt : s.constructed = true) : RunsAt s.unit s := by
  obtain ⟨heff, hunit, hdash⟩ := h.timing hbuilt
  refine ⟨rfl, hdash, ?_⟩
  rw [hunit, heff]
  exact unitOf_effective_pos s.speed

theorem RunsAt.of_config {u : Millis} {s t : State} (h : RunsAt u s) (hc : SameConfig s t) : RunsAt u t :=
  ⟨hc.unit.trans h.unit, hc.dash.trans h.dash, h.pos⟩

/-- The four delays a core requests (R90, R147). -/
theorem RunsAt.timed {u : Millis} {s : State} (h : RunsAt u s) :
    Timed u s.unit ∧ Timed u (2 * s.unit) ∧ Timed u s.dash ∧ Timed u (7 * s.unit) := by
  obtain ⟨rfl, hdash, hpos⟩ := h
  have hmul {k : Millis} (hk : 0 < k) : 0 < k * s.unit := Rat.mul_pos hk hpos
  rw [hdash]
  exact ⟨⟨hpos, .inl rfl⟩, ⟨hmul (by decide), .inr (.inl rfl)⟩, ⟨hmul (by decide), .inr (.inr (.inl rfl))⟩,
    ⟨hmul (by decide), .inr (.inr (.inr rfl))⟩⟩

theorem RunsAt.timed_keyEvents {u d : Millis} {s : State} {es : List Bool} (h : RunsAt u s)
    (hd : Event.dly d ∈ keyEvents s es) : Timed u d := by
  obtain ⟨hunit, -, hdash, -⟩ := h.timed
  obtain rfl | rfl := delay_of_key hd
  · exact hunit
  · exact hdash

theorem RunsAt.timed_gapEvents {u d : Millis} {s : State} (h : RunsAt u s) (hd : Event.dly d ∈ gapEvents s) :
    Timed u d := by
  obtain ⟨-, htwo, -, -⟩ := h.timed
  obtain hgap | hgap := gapEvents_cases s <;> rw [hgap] at hd
  · cases hd
  · cases List.mem_singleton.mp hd
    exact htwo

theorem requests_delay {u d : Millis} (h : Timed u d) (s : State) : Requests u s (delay d s) :=
  ⟨[.dly d], rfl, fun _ hd => Event.dly.inj (List.mem_singleton.mp hd) ▸ h⟩

theorem requests_keyElement {u : Millis} {s : State} (h : RunsAt u s) : Requests u s (keyElement s) := by
  have hone : keyEvents s [s.v.getLsbD 0] = elementEvents s (s.v.getLsbD 0) := List.flatMap_singleton ..
  rw [keyElement_eq, ← hone]
  exact ⟨_, rfl, fun _ => h.timed_keyEvents⟩

/-- A loaded symbol byte requests the delays of its elements and of the letter gap (R121, R122). -/
theorem requests_keyLoaded {u : Millis} {s : State} (h : RunsAt u s) : Requests u s (keyLoaded s) := by
  obtain ⟨-, hkeyed⟩ | ⟨-, hkeyed⟩ := keyLoaded_cases s
  · refine ⟨keyEvents s (unpack s.v) ++ gapEvents s, ?_, fun d hd => ?_⟩
    · rw [hkeyed, ended_trace, List.append_assoc]
    · exact (List.mem_append.mp hd).elim h.timed_keyEvents h.timed_gapEvents
  · rw [hkeyed]
    exact ⟨_, rfl, fun _ => h.timed_keyEvents⟩

theorem requests_sendCharacter {u : Millis} {c : Byte} {s t : State} (h : RunsAt u s)
    (hsend : sendCharacter c s = .next t) : Requests u s t := by
  obtain ⟨-, -, -, hseven⟩ := h.timed
  obtain ⟨-, rfl⟩ | ⟨-, d, rfl⟩ | ⟨-, d, rfl⟩ :=
    exec_char_cases (isChar_decodeChar c) ((exec_char c s).trans hsend)
  · exact (requests_delay hseven s).trans (.of_trace_eq (ended_trace _))
  · exact .of_trace_eq (ended_trace _)
  · have hloaded := ((keyed_latch d s).trans (keyed_resolve _)).trans (keyed_setV (symbolOf s d) _)
    exact requests_keyLoaded (h.of_config hloaded.config)

theorem requests_runStream {u : Millis} {bs : List Byte} {s t : State} (h : RunsAt u s) (hp : s.phase = .fetch)
    (ht : runStream bs s = .next t) : Requests u s t := by
  have hkept : RunsAt u t ∧ Requests u s t :=
    runStream_keeps (P := fun v => RunsAt u v ∧ Requests u s v)
      (fun v _ ⟨hv, hr⟩ => ⟨hv.of_config (undisturbed_place v false .idle).config, hr⟩)
      (fun _ v _ _ ⟨hv, hr⟩ hc =>
        ⟨hv.of_config (undisturbed_sendCharacter hc).config, hr.trans (requests_sendCharacter hv hc)⟩)
      hp ⟨h, .of_trace_eq rfl⟩ ht
  exact hkept.2

/-- In `IDLE` a row requests no delay (R85). -/
theorem requests_phaseIdle {s t : State} (hp : s.phase = .idle) (h : phaseIdle s = .next t) (u : Millis) :
    Requests u s t := by
  obtain hsame | ⟨p, l, htrace⟩ := phaseIdle_trace hp h
  · exact .of_trace_eq hsame
  · exact .of_notDelay htrace (by simp [notDelay])

/-- In a running command four rows request a delay each (R127). -/
theorem requests_phaseStep {u : Millis} {s t : State} (h : RunsAt u s) (hp : s.phase ≠ .idle)
    (ht : phaseStep s = .next t) : Requests u s t := by
  obtain ⟨hunit, htwo, hdash, hseven⟩ := h.timed
  cases hq : s.phase with
  | idle => exact absurd hq hp
  | fetch => obtain rfl | rfl | ⟨b, rfl⟩ := phaseFetch_cases ((row_fetch hq).symm.trans ht) <;> exact .of_trace_eq rfl
  | classify =>
    obtain rfl | rfl | rfl := phaseClassify_cases ((row_classify hq).symm.trans ht) <;> exact .of_trace_eq rfl
  | load =>
    obtain ⟨b, rfl⟩ := phaseLoad_cases ((row_load hq).symm.trans ht)
    exact .of_trace_eq rfl
  | test =>
    rw [row_test hq, phaseTest] at ht
    split at ht <;> cases ht <;> exact .of_trace_eq rfl
  | done =>
    cases (row_done hq).symm.trans ht
    exact .of_trace_eq (ended_trace s)
  | pTon => cases (row_pTon hq).symm.trans ht; exact .of_notDelay (evs := [_]) rfl (by simp [notDelay])
  | pOn => cases (row_pOn hq).symm.trans ht; exact .of_notDelay (evs := [_]) rfl (by simp [notDelay])
  | pOff => cases (row_pOff hq).symm.trans ht; exact .of_notDelay (evs := [_]) rfl (by simp [notDelay])
  | pTof => cases (row_pTof hq).symm.trans ht; exact .of_notDelay (evs := [_]) rfl (by simp [notDelay])
  | wordGap => cases (row_wordGap hq).symm.trans ht; exact requests_delay hseven s
  | pMark =>
    have hmark : Timed u (if s.v.getLsbD 0 then s.dash else s.unit) := by
      split
      · exact hdash
      · exact hunit
    cases (row_pMark hq).symm.trans ht
    exact requests_delay hmark s
  | pGap => cases (row_pGap hq).symm.trans ht; exact requests_delay hunit s
  | letterGap => cases (row_letterGap hq).symm.trans ht; exact requests_delay htwo s

/-- Settles O52: by the invariant the core runs at a positive unit, and each thing a step can do requests the delays of that
unit. -/
theorem delaysRequested : Obligations.DelaysRequested := by
  intro s t hs h
  show Requests s.unit s t
  obtain ⟨-, rfl⟩ | hrow | ⟨hp, rfl⟩ | ⟨hp, c, hc⟩ | ⟨-, hbuilt, rest, ⟨c, hc⟩ | ⟨bs, hseq⟩⟩ := step_cases h
  · exact .of_trace_eq rfl
  · by_cases hp : s.phase = .idle
    · exact requests_phaseIdle hp ((row_idle hp).symm.trans hrow) s.unit
    · exact requests_phaseStep (hs.runsAt (hs.constructed_of_ne_idle hp)) hp hrow
  · exact requests_keyElement (hs.runsAt (hs.constructed_of_ne_idle (by simp [hp])))
  · have hne : s.phase ≠ .idle := by obtain hp | hp := hp <;> simp [hp]
    exact requests_sendCharacter (hs.runsAt (hs.constructed_of_ne_idle hne)) hc
  · have htake : Requests s.unit s { s with host := rest, inseq := false } := .of_trace_eq rfl
    have hruns := (hs.runsAt hbuilt).of_config (t := { s with host := rest, inseq := false }) (by constructor <;> rfl)
    exact htake.trans (requests_sendCharacter hruns hc)
  · have hstart : Requests s.unit s (startStream bs { s with host := rest }) := .of_trace_eq rfl
    have hruns := (hs.runsAt hbuilt).of_config (t := startStream bs { s with host := rest }) (by constructor <;> rfl)
    exact hstart.trans (requests_runStream hruns rfl hseq)

end Sys2Proof.Safety
end

section
/-!
What 60_exceptions.md says of several cores: a step of one leaves the others and the table they share alone (R149, R151), and
it is refused exactly where it would overlap a command of another core on its tone channel (R150). It settles O57 and O58.
-/
namespace Sys2Proof.Safety

open Sys2Proof.Machine

/-! ## What the other cores see -/

/-- A row of R127 and a reset between two rows leave the table alone (R30, R36). -/
theorem smallStep_table {s t : State} (h : smallStep s = .next t) : t.table = s.table := by
  cases hrst : s.rst with
  | true =>
    have hreset : smallStep s = .next (hardwareReset s) := if_pos hrst
    cases hreset.symm.trans h
    exact (retains_hardwareReset s).table
  | false => exact (retains_phaseStep ((smallStep_row hrst).symm.trans h)).table

theorem shareTable_set {cores : List State} {k : Nat} {s t : State} {table : List Host.Cell} (hs : cores[k]? = some s)
    (ht : t.table = s.table) (h : shareTable cores table) : shareTable (cores.set k t) table := by
  intro u hu
  obtain hu | rfl := List.mem_or_eq_of_mem_set hu
  · exact h u hu
  · exact ht.trans (h s (List.mem_of_getElem? hs))

/-- A machine that does not write the table moves one core and nothing of the others. -/
theorem runInstance_independent {next : State → Outcome} (htable : ∀ s t, next s = .next t → t.table = s.table) {k : Nat}
    {cores after : List State} (h : runInstance next k cores = .next after) :
    after.length = cores.length ∧ (∀ j, j ≠ k → after[j]? = cores[j]?) ∧
    ∀ table, shareTable cores table → shareTable after table := by
  obtain ⟨-, rfl⟩ | ⟨s, t, hs, -, ht, rfl⟩ := runInstance_next h
  · exact ⟨rfl, fun _ _ => rfl, fun _ => id⟩
  · exact ⟨List.length_set, fun j hj => List.getElem?_set_ne hj.symm, fun _ => shareTable_set hs (htable s t ht)⟩

/-- Settles O57: neither a step (O48) nor a row writes the table. -/
theorem coresAreIndependent : Obligations.CoresAreIndependent := by
  intro k cores after table h
  obtain ⟨hlength, hothers, hshare⟩ :=
    h.elim (runInstance_independent tableNeverChanges) (runInstance_independent fun _ _ => smallStep_table)
  exact ⟨hlength, hothers, hshare table⟩

/-! ## The tone channel of the next step -/

theorem ownTone_tone {s : State} (h : s.toneEn = true) : ownTone s = some s.toneCh := if_pos h

theorem ownTone_silent {s : State} (h : s.toneEn = false) : ownTone s = none := by simp [ownTone, h]

/-- A running command goes on with the channel of the core. -/
theorem nextTone_running {s : State} (hrst : s.rst = false) (hp : s.phase ≠ .idle) : nextTone s = ownTone s := by
  simp [nextTone, hrst, hp]

theorem nextTone_waiting {s : State} (hp : s.phase = .idle) (hhost : s.host = []) : nextTone s = none := by
  simp [nextTone, fetch, hp, hhost]

section Presented

/-! A command word presented to an idle core that is not held in reset. -/

variable {s : State} {w : CommandWord} {rest : List CommandWord} (hrst : s.rst = false) (hp : s.phase = .idle)
  (hhost : s.host = w :: rest)

include hrst hp hhost

theorem nextTone_presented :
    nextTone s = if accepts (decodeCommand w) s then commandTone (decodeCommand w) s else none := by
  simp [nextTone, fetch, hrst, hp, hhost]

theorem nextTone_construct3 (h : w.op = 0) : nextTone s = none := by
  have hd : decodeCommand w = .construct3 w.pin w.speed w.invert := if_pos h
  rw [nextTone_presented hrst hp hhost, hd]
  exact ite_self none

theorem nextTone_construct5 (h : w.op = 1) : nextTone s = some w.toneCh := by
  have hd : decodeCommand w = .construct5 w.pin w.speed w.toneCh w.freq w.invert := by simp [decodeCommand, h]
  rw [nextTone_presented hrst hp hhost, hd]
  exact if_pos (decide_eq_true hp)

theorem nextTone_send (h : w.op = 2 ∨ w.op = 3) : nextTone s = if s.constructed then ownTone s else none := by
  have hadmits : admitsSend s = s.constructed := by simp [admitsSend, hp]
  have hd : decodeCommand w = .sendChar w.char ∨ decodeCommand w = .sendSeq w.stream := by
    obtain h | h := h <;> simp [decodeCommand, h]
  rw [nextTone_presented hrst hp hhost, ← hadmits]
  obtain hd | hd := hd <;> rw [hd] <;> rfl

end Presented

/-- A core without a tone channel has none in its next step, unless that takes a `CONSTRUCT5`. -/
theorem nextTone_silent {s : State} (hrst : s.rst = false) (htone : s.toneEn = false)
    (hop : s.phase = .idle → ∀ w, s.host.head? = some w → w.op ≠ 1) : nextTone s = none := by
  have hown := ownTone_silent htone
  by_cases hp : s.phase = .idle
  · cases hhost : s.host with
    | nil => exact nextTone_waiting hp hhost
    | cons w rest =>
      have hne : w.op ≠ 1 := hop hp w (by rw [hhost]; rfl)
      have hcases : w.op = 0 ∨ w.op = 2 ∨ w.op = 3 := by bv_omega
      obtain h0 | hsend := hcases
      · exact nextTone_construct3 hrst hp hhost h0
      · rw [nextTone_send hrst hp hhost hsend, hown]
        exact ite_self none
  · rw [nextTone_running hrst hp, hown]

/-! ## Refused, or the core's own step -/

/-- Another core than number `k` runs a command on the tone channel `ch`. -/
def SharedTone (k : Nat) (cores : List State) (ch : ToneId) : Prop :=
  ∃ j u, j ≠ k ∧ cores[j]? = some u ∧ u.phase ≠ .idle ∧ u.toneEn = true ∧ u.toneCh = ch

theorem toneOverlap_iff_sharedTone (k : Nat) (cores : List State) (s : State) :
    toneOverlap k cores s = true ↔ ∃ ch, nextTone s = some ch ∧ SharedTone k cores ch := by
  simp only [toneOverlap_iff, busyOn_iff, SharedTone, exists_and_left]

/-- Settles O58: the channel of the next step case by case, and the overlap in the words of R150. -/
theorem overlappedToneIsRefused : Obligations.OverlappedToneIsRefused := by
  intro k cores s hs hrst
  refine ⟨fun hp htone => ?_, fun w rest hp hhost hbuilt htone hop => ?_,
    fun w rest hp hhost => nextTone_construct5 hrst hp hhost, fun w rest hp hhost => nextTone_construct3 hrst hp hhost,
    nextTone_waiting, fun w rest hp hhost hbuilt hop => ?_, nextTone_silent hrst, fun ch hch hshared => ?_,
    fun hfree => ?_⟩
  · rw [nextTone_running hrst hp, ownTone_tone htone]
  · rw [nextTone_send hrst hp hhost hop, if_pos hbuilt, ownTone_tone htone]
  · rw [nextTone_send hrst hp hhost hop, hbuilt]
    rfl
  · have hoverlap : toneOverlap k cores s = true := (toneOverlap_iff_sharedTone k cores s).mpr ⟨ch, hch, hshared⟩
    exact ⟨runInstance_overlap hs hoverlap, runInstance_overlap hs hoverlap⟩
  · have hoverlap : toneOverlap k cores s = false := by
      rw [← Bool.not_eq_true, toneOverlap_iff_sharedTone]
      rintro ⟨ch, hch, hshared⟩
      exact hfree ch hch hshared
    exact ⟨fun t ht => runInstance_step hs hoverlap ht,
      fun t ht => runInstance_step hs hoverlap ((smallStep_row hrst).trans ht)⟩

end Sys2Proof.Safety
end

section
/-!
The hardware reset and the hazards of 70_reset_and_hazards.md: where a reset leaves the core (R160, R161), and the two ways a
core waits for ever, for a construction (R162) and for the next byte of a stream (R170). It settles O31, O35, O41 and O56.
-/
namespace Sys2Proof.Safety

open Sys2Proof.Machine

/-! ## The hardware reset -/

/-- Settles O41: the reset state is not constructed and idle, with nothing listed in its table. -/
theorem resetInvariant : Obligations.ResetInvariant where
  canonical := Memory.reset_wf
  timing := nofun
  level := nofun
  tone := nofun
  tonePhases := nofun
  unbuilt _ := rfl
  between _ := rfl
  fetching := nofun
  range := nofun

/-- Settles O56: whatever the phase, the step under the reset line is the hardware reset. -/
theorem hardwareResetAbandonsTheCommand : Obligations.HardwareResetAbandonsTheCommand := fun s hrst =>
  ⟨hardwareReset s, step_reset hrst, rfl, rfl, rfl, rfl, rfl, rfl, rfl, rfl⟩

/-! ## Waiting for a construction -/

/-- The two selectors of a send are admitted as any send is (R128, R162). -/
theorem accepts_send {k : CommandWord} (hop : k.op = 2 ∨ k.op = 3) (s : State) :
    accepts (decodeCommand k) s = admitsSend s := by
  obtain ⟨h0, -⟩ | ⟨h1, -⟩ | ⟨-, hd⟩ | ⟨-, hd⟩ := decodeCommand_cases k
  · simp [h0] at hop
  · simp [h1] at hop
  · rw [hd]
    rfl
  · rw [hd]
    rfl

/-- Settles O31: before construction the send is held, which is a step back to the same state. -/
theorem sendBeforeConstructionWaits : Obligations.SendBeforeConstructionWaits := by
  intro s k rest hrst hidle hunbuilt hhost hop
  have hheld : accepts (decodeCommand k) s = false := (accepts_send hop s).trans (admitsSend_eq_false (.inr hunbuilt))
  have hstep : step s = .next s := by
    rw [step_command hrst hidle hhost, take_held hheld, exec_command_held hheld]
  exact ⟨hstep, run_fixed hstep⟩

/-! ## Waiting for a byte -/

/-- A sequence without a terminator sends its characters, and stands in `FETCH` behind the last of them (R170). -/
theorem exec_sendSeq_unterminated {s : State} {bs : List Byte} (hidle : s.phase = .idle) (hbuilt : s.constructed = true)
    (hzero : NoZero s.table) (hbs : 0 ∉ bs) :
    exec (.sendSeq bs) s = .next (placed ⟨bs, bs.length, true, .fetch, s.rsp⟩ (sentAll bs s)) := by
  have hloop := runStream_append (stream := bs) (rsp := s.rsp) (sp := 0) hzero hbs []
  rw [List.append_nil, Nat.zero_add] at hloop
  rw [exec_sendSeq_accepted hidle hbuilt, startStream_eq, hloop]
  rfl

/-- Settles O35: both ways of sending the string end in the state of `sentAll`, and the sequence ends where the stream has no
byte, so that the core steps back to the same state. -/
theorem unterminatedStreamKeepsTheCoreBusy : Obligations.UnterminatedStreamKeepsTheCoreBusy := by
  intro s bs hidle hbuilt hrst hzero hbs
  have hseq := exec_sendSeq_unterminated hidle hbuilt hzero hbs
  obtain ⟨q, hall⟩ := sendAll_placed (bs := bs) (p := placeOf s) (s := s) hidle hbuilt hzero
  rw [placed_placeOf] at hall
  obtain ⟨-, -, -, hline, -⟩ := onlyConstructionConfigures (.sendSeq bs) s _ rfl hseq
  have hstep := step_waits_byte (hline.trans hrst) rfl (List.getElem?_length (l := bs))
  exact ⟨_, _, hseq, hall, rfl, rfl, rfl, rfl, rfl, rfl, rfl, rfl, run_fixed hstep⟩

end Sys2Proof.Safety
end
